-- ==== Sys2Proof/Word.lean ====
section
/-!
DEFINITION. The word types of the block: 64-bit registers at the port (10_state.md R16), bytes of the buffer memory
(20_memory.md R30) and the 32-bit header word (30_encoding.md R45, 00_scope.md R7). All values are unsigned, bit 0 is the
least significant bit (00_scope.md R8, R9).
-/
namespace Sys2Proof

/-- A register at the host port: 64 bits (R16). -/
abbrev Word := BitVec 64

/-- A byte of the buffer memory (R30). -/
abbrev Byte := BitVec 8

/-- A packed header word: 32 bits (R7, R45). -/
abbrev HdrWord := BitVec 32

end Sys2Proof
end

