-- ==== Sys2Proof/Syntax.lean ====
section
/-!
DEFINITION. The syntax of the commands: one constructor per row of spec/opcode_table.json (30_encoding.md R53, R54).
-/
namespace Sys2Proof

/-- The operand widths of BIT_RANGE, W_SET of 00_scope.md R6. -/
inductive Width where
  | w8
  | w16
  | w32
  | w64
  deriving DecidableEq, Repr

/-- A bound of BIT_RANGE: its kind, and its position where the kind has one (30_encoding.md R53, 41_bit_range.md R61). The
position field of an unbounded bound is ignored (R53), so it is no part of the instruction. -/
inductive Bound where
  | unbounded
  | included (pos : Nat)
  | excluded (pos : Nat)
  deriving DecidableEq, Repr

/-- The commands (R54). ATTACH and DECODE_HEADER take their operands from ARG0 and ARG1, not from the command word. -/
inductive Instr where
  /-- ATTACH: ARG0 = buffer length, ARG1 = start cursor (44_facade.md R81). -/
  | attach
  /-- NEXT_FRAME (44_facade.md R82). -/
  | nextFrame
  /-- DECODE_HEADER: ARG0 = raw header word (42_header_model.md R69). -/
  | decodeHeader
  /-- BIT_RANGE: ARG0 = value; the width, the start bound and the end bound stand in the command word (41_bit_range.md R65). -/
  | bitRange (w : Width) (start stop : Bound)
  deriving DecidableEq, Repr

end Sys2Proof
end

