-- ==== Sys2Proof/WellFormed.lean ====
section
/-!
DEFINITION. Well-formed instructions: a bound's position is an 8-bit field, 0 to 255 (30_encoding.md R53, 92_eei_decisions.md
D15). Nothing else can be wrong with a term of Instr.
-/
namespace Sys2Proof

/-- A position fits its 8-bit field (R53). -/
def Bound.wf : Bound → Bool
  | .unbounded => true
  | .included p => p < 256
  | .excluded p => p < 256

/-- The check of an instruction: both bounds of BIT_RANGE fit their fields. -/
def Instr.wf : Instr → Bool
  | .attach => true
  | .nextFrame => true
  | .decodeHeader => true
  | .bitRange _ start stop => start.wf && stop.wf

end Sys2Proof
end

