-- ==== Sys2Proof/Decode.lean ====
section
/-!
DEFINITION. Decoding the command word (30_encoding.md R53 to R57) and, after it, encoding it. A command is one 64-bit register
write (R58): the port has no byte lanes, so no byte order arises (20_memory.md R31) and the decoder takes the word whole. It is
total and rejects every reserved encoding under a name; the machine makes Fault(ILLEGAL_COMMAND) of each (R55, R57).
-/
namespace Sys2Proof

/-- Why a command word is no instruction: the reserved encodings of R57, in the order R55 tests them. -/
inductive Reject where
  /-- bits [63:32] are not 0 -/
  | highBitsSet
  /-- OP is 0x0 or 0x5 to 0xF -/
  | reservedOpcode
  /-- a command other than BIT_RANGE has a bit of [31:4] set -/
  | operandBitsSet
  /-- BIT_RANGE has a bit of [15:10] set -/
  | reservedBitsSet
  /-- SKIND or EKIND is 11 -/
  | reservedBoundKind
  deriving DecidableEq, Repr

/-- A command without operand bits: bits [31:4] must be 0 (R53, R55). -/
def decodePlain (v : Word) (i : Instr) : Except Reject Instr :=
  if v.extractLsb' 4 28 ≠ 0#28 then .error .operandBitsSet else .ok i

/-- WSEL: operand width 8 << WSEL (R53). -/
def decodeWidth (wsel : BitVec 2) : Width :=
  if wsel = 0#2 then .w8 else if wsel = 1#2 then .w16 else if wsel = 2#2 then .w32 else .w64

/-- A bound from its kind and position fields (R53): 00 unbounded, position ignored; 01 included; 10 excluded; 11 reserved. -/
def decodeBound (kind : BitVec 2) (pos : BitVec 8) : Option Bound :=
  if kind = 0#2 then some .unbounded
  else if kind = 1#2 then some (.included pos.toNat)
  else if kind = 2#2 then some (.excluded pos.toNat)
  else none

/-- BIT_RANGE's operand fields (R53, R55): WSEL [5:4], SKIND [7:6], EKIND [9:8], [15:10] reserved, SPOS [23:16], EPOS [31:24]. -/
def decodeBitRange (v : Word) : Except Reject Instr :=
  if v.extractLsb' 10 6 ≠ 0#6 then .error .reservedBitsSet
  else
    match decodeBound (v.extractLsb' 6 2) (v.extractLsb' 16 8), decodeBound (v.extractLsb' 8 2) (v.extractLsb' 24 8) with
    | some start, some stop => .ok (.bitRange (decodeWidth (v.extractLsb' 4 2)) start stop)
    | _, _ => .error .reservedBoundKind

/-- The decoding half of R55, and the opcode map R54. -/
def decode (v : Word) : Except Reject Instr :=
  if v.extractLsb' 32 32 ≠ 0#32 then .error .highBitsSet
  else if v.extractLsb' 0 4 = 1#4 then decodePlain v .attach
  else if v.extractLsb' 0 4 = 2#4 then decodePlain v .nextFrame
  else if v.extractLsb' 0 4 = 3#4 then decodePlain v .decodeHeader
  else if v.extractLsb' 0 4 = 4#4 then decodeBitRange v
  else .error .reservedOpcode

/-- The instruction the decoder reads from a word of `nbits` bits numbered as the opcode table numbers them, the bits above
being 0. -/
def decodeTableWord (nbits w : Nat) : Option Instr :=
  if w % 2 ^ nbits < 2 ^ 64 then (decode (BitVec.ofNat 64 (w % 2 ^ nbits))).toOption else none

/-! The encoder, from the same tables. -/

/-- OP (R54). -/
def opcode : Instr → BitVec 4
  | .attach => 0x1#4
  | .nextFrame => 0x2#4
  | .decodeHeader => 0x3#4
  | .bitRange _ _ _ => 0x4#4

/-- WSEL of a width (R53). -/
def Width.sel : Width → BitVec 2
  | .w8 => 0b00#2
  | .w16 => 0b01#2
  | .w32 => 0b10#2
  | .w64 => 0b11#2

/-- SKIND or EKIND of a bound (R53). -/
def Bound.kind : Bound → BitVec 2
  | .unbounded => 0b00#2
  | .included _ => 0b01#2
  | .excluded _ => 0b10#2

/-- SPOS or EPOS of a bound; an unbounded bound encodes its position field as 0 (R59). DESIGN CHOICE (log entry 20): a position above
255, which no 8-bit field holds and `Bound.wf` refuses, has no encoding in the spec; the low 8 bits that stand here for it are used
nowhere. -/
def Bound.posField : Bound → BitVec 8
  | .unbounded => 0#8
  | .included p => BitVec.ofNat 8 p
  | .excluded p => BitVec.ofNat 8 p

/-- The command word of an instruction, its fields most significant first (R53). -/
def encode : Instr → Word
  | .attach => 0#60 ++ 0x1#4
  | .nextFrame => 0#60 ++ 0x2#4
  | .decodeHeader => 0#60 ++ 0x3#4
  | .bitRange w start stop =>
      0#32 ++ stop.posField ++ start.posField ++ 0#6 ++ stop.kind ++ start.kind ++ w.sel ++ 0x4#4

end Sys2Proof
end

