-- ==== Sys2Proof/Config.lean ====
section
/-!
DEFINITION. The build parameters of the block (00_scope.md R6) and the two free values of the model. ADDR_W, P_VERSION_01 and
BITRATE_TABLE are arguments of the model with a default; they ride in State unchanged, so a statement over every state is a
statement over every parameter (log entries 1 to 4). SAMPLING_TABLE and W_SET have one value in R6 and are constants.
-/
namespace Sys2Proof

/-- P_VERSION_01 (R6, R46): what the header check makes of the version pattern 01. OPEN in the spec, D11. -/
inductive Version01 where
  | rejectMpeg25
  | rejectMpeg2
  | accept
  deriving DecidableEq, Repr

/-- The parameters of R6 that the spec leaves as arguments. -/
structure Config where
  /-- ADDR_W: the width of CURSOR, BUF_LEN and buffer indices, 1 to 64 (D8). -/
  addrW : Nat
  /-- P_VERSION_01 (D11). -/
  version01 : Version01
  /-- BITRATE_TABLE in kbps, one row for each of the layers I, II and III, indexed by BITRATE_INDEX 0 to 14 (R71, D13). -/
  bitrateTable : List (List Word)
  deriving DecidableEq, Repr

/-- What R6 and R71 ask of the parameters: 1 ≤ ADDR_W ≤ 64; three rows of 15 entries, entry 0 (free format) being 0, which is the
source's own (R71: "Index 0 giving 0 is the source's"). -/
abbrev Config.wf (c : Config) : Prop :=
  1 ≤ c.addrW ∧ c.addrW ≤ 64 ∧ c.bitrateTable.length = 3 ∧
    ∀ row ∈ c.bitrateTable, row.length = 15 ∧ row[0]? = some 0

/-- The default BITRATE_TABLE, letter for letter R71 (the ISO/IEC 11172-3 values; not the source's, D13). -/
def defaultBitrateTable : List (List Word) :=
  [[0, 32, 64, 96, 128, 160, 192, 224, 256, 288, 320, 352, 384, 416, 448],
   [0, 32, 48, 56, 64, 80, 96, 112, 128, 160, 192, 224, 256, 320, 384],
   [0, 32, 40, 48, 56, 64, 80, 96, 112, 128, 160, 192, 224, 256, 320]]

/-- The defaults of R6. -/
def defaultConfig : Config where
  addrW := 32
  version01 := .rejectMpeg25
  bitrateTable := defaultBitrateTable

/-- SAMPLING_TABLE (R6, R73): Hz for the sampling-rate indices 0, 1 and 2. -/
def samplingTable : List Word := [44100, 48000, 32000]

/-- FREE VALUE: the n-th fresh draw of the reads R37 leaves unconstrained (a byte the host wrote while attached). Log entry 6. -/
opaque Config.freeByte : Nat → Byte

/-- FREE VALUE: what buffer byte i holds before the host has stored to it, an input the spec gives no value for (R29, U12).
Reading it twice gives the same byte (R33). Log entry 5. -/
opaque Config.unwrittenByte : Nat → Byte

end Sys2Proof
end

