-- ==== Sys2Proof/Machine/State.lean ====
section
/-!
DEFINITION. The state of the machine: the block's registers (10_state.md R14, all of them), the build parameters, the host's
buffer memory, and the accesses the host has issued. Plain data. Also the named codes of STATUS, the register names, and why the
machine may stop.
-/
namespace Sys2Proof.Machine

/-- RESULT codes 0 to 6 (10_state.md R18). -/
inductive Result where
  | none
  | header
  | noMoreData
  | unsupportedFormat
  | invalidHeader
  | bextDone
  | attachedOk
  deriving DecidableEq, Repr

/-- REASON codes 0 to 6: which check of the header validation fired (10_state.md R19). -/
inductive Reason where
  | none
  | mpeg25
  | mpeg2
  | layerReserved
  | bitrateInvalid
  | samplingReserved
  | emphasisReserved
  deriving DecidableEq, Repr

/-- FAULT_CAUSE codes 1 to 6 (60_exceptions.md R90). -/
inductive FaultCause where
  | illegalCommand
  | notAttached
  | attachRange
  | operandWidth
  | bextInverted
  | bextOutOfRange
  deriving DecidableEq, Repr

/-- The registers of the port (10_state.md R16), in the order of their numbers. -/
inductive Reg where
  | cmd | arg0 | arg1 | status | cursor | bufLen | hdrRaw | bitrateKbps | samplingRateHz | bextResult
  | fSync | fVersionLow | fVersionSel | fLayer | fProtection | fBitrateIndex | fSrateIndex
  | fPadding | fPrivate | fChannelMode | fModeExt | fCopyright | fOriginal | fEmphasis
  deriving DecidableEq, Repr

/-- One access of the host to the block or to the buffer memory it owns (20_memory.md R30, R31, R37; 70_reset_and_hazards.md R99).
A register is given by its number, so an unassigned number can be given too (R31). -/
inductive HostAccess where
  /-- write a 64-bit value to a register number -/
  | write (reg : Nat) (value : Word)
  /-- read a register number -/
  | read (reg : Nat)
  /-- store a byte at an index of the buffer memory -/
  | store (index : Nat) (byte : Byte)
  /-- assert reset -/
  | reset
  deriving DecidableEq, Repr

/-- The buffer memory: the bytes the host has stored, by index, indices strictly rising. An unlisted index holds no stored byte. -/
abbrev Memory := List Host.Cell

/-- The canonical form of the buffer memory: indices strictly rising. What an unlisted index reads as is "no stored byte", and no
entry equals that, so equal memories are equal lists. -/
abbrev Memory.wf (m : Memory) : Prop := (m.map Prod.fst).Pairwise (· < ·)

/-- The machine's state. The fields from `attached` to `faultCause` are the block's state, exactly those of R14. -/
structure State where
  /-- The build parameters (00_scope.md R6); no step changes them. -/
  cfg : Config
  /-- ATTACHED -/
  attached : Bool
  /-- BUF_LEN; below 2^ADDR_W (R21) -/
  bufLen : Word
  /-- CURSOR; at most BUF_LEN (R21) -/
  cursor : Word
  /-- ARG0 -/
  arg0 : Word
  /-- ARG1 -/
  arg1 : Word
  /-- HDR_VALID -/
  hdrValid : Bool
  /-- HDR_RAW -/
  hdrRaw : HdrWord
  /-- RESULT -/
  result : BitVec 4
  /-- REASON -/
  reason : BitVec 4
  /-- BEXT_RESULT -/
  bextResult : Word
  /-- FAULT -/
  fault : Bool
  /-- FAULT_CAUSE -/
  faultCause : BitVec 4
  /-- The buffer memory (R30); the host's. -/
  mem : Memory
  /-- The attached bytes the host has stored to since ATTACH, indices rising: reads of them are draws (20_memory.md R37). -/
  unstable : List Nat
  /-- How many draws of R37 have been made; the next one is `Config.freeByte draws`. The model's own (log entry 6). -/
  draws : Nat
  /-- The host's accesses not yet performed, next first (70_reset_and_hazards.md R101). The model's own (log entry 7). -/
  host : List HostAccess
  /-- What the host's last register read returned (20_memory.md R31). The model's own (log entry 8). -/
  readData : Word
  deriving DecidableEq, Repr

/-- Why the machine stops with a fault. A contract fault of the block is no such stop: it is a state (60_exceptions.md R89). -/
inductive Fault where
  /-- The host stores to a buffer index at or above 2^ADDR_W, a byte that does not exist (20_memory.md R30). Raised by the host's
  store, never by a command. Safe: the machine goes no further. -/
  | noSuchBufferByte (index : Nat)
  deriving DecidableEq, Repr

/-- Why the machine refuses. -/
inductive Refusal where
  /-- An instruction without a meaning, by its mnemonic. No arm raises it: every instruction has its meaning. Safe. -/
  | notModelled (mnemonic : String)
  /-- The host accesses a register number outside the map: "The model refuses it: the host program is not admitted"
  (20_memory.md R31). Raised by the port, never by a command. Safe. -/
  | unassignedRegister (number : Nat)
  deriving DecidableEq, Repr

/-- The state after reset, which is the power-up state (10_state.md R29, 70_reset_and_hazards.md R99, R100): every register 0.
The parameters are the defaults of R6. No byte is stored, and the host has issued no access. -/
def State.reset : State where
  cfg := defaultConfig
  attached := false
  bufLen := 0
  cursor := 0
  arg0 := 0
  arg1 := 0
  hdrValid := false
  hdrRaw := 0
  result := 0
  reason := 0
  bextResult := 0
  fault := false
  faultCause := 0
  mem := []
  unstable := []
  draws := 0
  host := []
  readData := 0

end Sys2Proof.Machine
end

