-- ==== Sys2Proof/Machine/Flags.lean ====
section
/-!
DEFINITION. STATUS: the codes of its fields, the packing of the register, and the one primitive by which a command writes its
result (10_state.md R17 to R19, R26; 60_exceptions.md R90).
-/
namespace Sys2Proof.Machine

/-- RESULT codes (R18). -/
def resultCode : Result → BitVec 4
  | .none => 0
  | .header => 1
  | .noMoreData => 2
  | .unsupportedFormat => 3
  | .invalidHeader => 4
  | .bextDone => 5
  | .attachedOk => 6

/-- REASON codes (R19). -/
def reasonCode : Reason → BitVec 4
  | .none => 0
  | .mpeg25 => 1
  | .mpeg2 => 2
  | .layerReserved => 3
  | .bitrateInvalid => 4
  | .samplingReserved => 5
  | .emphasisReserved => 6

/-- The exact reason strings (R11, R19); the block represents them by the code. -/
def reasonText : Reason → Option String
  | .none => Option.none
  | .mpeg25 => some "MPEG-2.5"
  | .mpeg2 => some "MPEG-2"
  | .layerReserved => some "layer reserved"
  | .bitrateInvalid => some "bitrate index invalid"
  | .samplingReserved => some "sampling rate reserved"
  | .emphasisReserved => some "emphasis reserved"

/-- FAULT_CAUSE codes (60_exceptions.md R90). -/
def causeCode : FaultCause → BitVec 4
  | .illegalCommand => 1
  | .notAttached => 2
  | .attachRange => 3
  | .operandWidth => 4
  | .bextInverted => 5
  | .bextOutOfRange => 6

/-- `finish(result, reason)`: writes RESULT and REASON and nothing else (R19). -/
def finish (res : Result) (why : Reason) (s : State) : State :=
  { s with result := resultCode res, reason := reasonCode why }

/-- STATUS (R17), most significant first: [63:16] 0, FAULT_CAUSE, [11] 0, FAULT, ATTACHED, HDR_VALID, REASON, RESULT. -/
def statusWord (s : State) : Word :=
  0#48 ++ s.faultCause ++ 0#1 ++ BitVec.ofBool s.fault ++ BitVec.ofBool s.attached ++ BitVec.ofBool s.hdrValid
    ++ s.reason ++ s.result

end Sys2Proof.Machine
end

