-- ==== Sys2Proof/Machine/Operands.lean ====
section
/-!
DEFINITION. Operand forms: the bit-field extraction law, which is the one field reader of the whole block (41_bit_range.md R61,
R63, R64; 42_header_model.md R70), the widths and bounds of BIT_RANGE, and the fields of a header word (30_encoding.md R45 to R50).
-/
namespace Sys2Proof.Machine

/-- W in bits: 8 << WSEL (30_encoding.md R53). -/
def widthBits : Width → Nat
  | .w8 => 8
  | .w16 => 16
  | .w32 => 32
  | .w64 => 64

/-- `low` of a start bound, on naturals (41_bit_range.md R61, D14). -/
def spanLow : Bound → Nat
  | .unbounded => 0
  | .included p => p
  | .excluded p => p + 1

/-- `high` of an end bound for operand width `w`, on naturals (R61). -/
def spanHigh (w : Nat) : Bound → Nat
  | .unbounded => w
  | .included p => p + 1
  | .excluded p => p

/-- The value law (R63): `(v >> low) & (2^(high - low) - 1)`, on naturals. -/
def bitRange (v low high : Nat) : Nat := (v >>> low) &&& (2 ^ (high - low) - 1)

/-- `raw[hi:lo]` of a header word, read by `bit_range_32(raw, lo, hi + 1)` (42_header_model.md R70). -/
def hdrField (raw : HdrWord) (hi lo : Nat) : Nat := bitRange raw.toNat lo (hi + 1)

/-- VERSION = HDR[20:19] (30_encoding.md R46). -/
def hdrVersion (raw : HdrWord) : Nat := hdrField raw 20 19

/-- LAYER = HDR[18:17] (R47). -/
def hdrLayer (raw : HdrWord) : Nat := hdrField raw 18 17

/-- PROTECTION = HDR[16]; 0 means that a CRC field follows (R48). -/
def hdrProtection (raw : HdrWord) : Nat := hdrField raw 16 16

/-- BITRATE_INDEX = HDR[15:12] (R49). -/
def hdrBitrateIndex (raw : HdrWord) : Nat := hdrField raw 15 12

/-- SRATE_INDEX = HDR[11:10] (R49). -/
def hdrSrateIndex (raw : HdrWord) : Nat := hdrField raw 11 10

/-- EMPHASIS = HDR[1:0] (R50). -/
def hdrEmphasis (raw : HdrWord) : Nat := hdrField raw 1 0

end Sys2Proof.Machine
end

