-- ==== Sys2Proof/Machine/Ops.lean ====
section
/-!
DEFINITION. The named operations over memory and registers that the commands share: the buffer memory, MemRead, the header result,
the cursor, entering the contract fault, and reset.
-/
namespace Sys2Proof.Machine

/-- The byte stored at an index, if the host has stored one. -/
def memLookup : Memory → Nat → Option Byte
  | [], _ => none
  | (a, b) :: rest, i => if a = i then some b else memLookup rest i

/-- Store a byte at an index, keeping the canonical form. -/
def memStore : Memory → Nat → Byte → Memory
  | [], i, x => [(i, x)]
  | (a, b) :: rest, i, x =>
      if i < a then (i, x) :: (a, b) :: rest
      else if i = a then (i, x) :: rest
      else (a, b) :: memStore rest i x

/-- What index `i` of the buffer memory holds: the byte stored there, or the free byte of an index nothing has stored to
(log entry 5). -/
def memByte (m : Memory) (i : Nat) : Byte :=
  match memLookup m i with
  | some b => b
  | none => Config.unwrittenByte i

/-- Add an index to a strictly rising list of indices. -/
def insertIndex : List Nat → Nat → List Nat
  | [], i => [i]
  | a :: rest, i => if i < a then i :: a :: rest else if i = a then a :: rest else a :: insertIndex rest i

/-- `MemRead(i, 1)` after `d` draws (20_memory.md R33, R37): the stored byte, and for a byte the host has stored to while attached
a fresh draw. Answers the byte and the count of draws after it. A read changes nothing else. -/
def memRead (s : State) (d i : Nat) : Byte × Nat :=
  if i ∈ s.unstable then (Config.freeByte d, d + 1) else (memByte s.mem i, d)

/-- `HDR_RAW <- word; HDR_VALID <- 1` (10_state.md R20 (a)). -/
def setHeader (raw : HdrWord) (s : State) : State := { s with hdrRaw := raw, hdrValid := true }

/-- `HDR_RAW <- 0; HDR_VALID <- 0` (10_state.md R20 (b), (c)). -/
def clearHeader (s : State) : State := { s with hdrRaw := 0, hdrValid := false }

/-- CURSOR <- c, and the draws made on the way (43_synchronizer.md R77). -/
def moveCursor (c d : Nat) (s : State) : State := { s with cursor := BitVec.ofNat 64 c, draws := d }

/-- The buffer view of ATTACH (44_facade.md R81). It ends the draws of the earlier attachment (20_memory.md R37). -/
def attachView (len start : Word) (s : State) : State :=
  { s with bufLen := len, cursor := start, attached := true, unstable := [] }

/-- `raise Fault(cause)`: the entry to the contract-fault state, whole (60_exceptions.md R89). Nothing is saved and nothing else
changes. -/
def raiseFault (cause : FaultCause) (s : State) : State := { s with fault := true, faultCause := causeCode cause }

/-- The reset event, the only way out of the contract fault (60_exceptions.md R92, 70_reset_and_hazards.md R99): every item of block
state at its value of 10_state.md R29. The buffer memory and the parameters are not touched, nor is what the host has issued. -/
def resetBlock (s : State) : State :=
  { State.reset with cfg := s.cfg, mem := s.mem, draws := s.draws, host := s.host, readData := s.readData }

end Sys2Proof.Machine
end

