-- ==== Sys2Proof/Machine/BitRange.lean ====
section
/-!
DEFINITION. The Bit-Field Extractor: BIT_RANGE (41_bit_range.md R61 to R65).
-/
namespace Sys2Proof.Machine

/-- BIT_RANGE (R65): the three checks of R62 in their order, then the value law of R63. One definition for all widths (R64). -/
def execBitRange (w : Width) (start stop : Bound) (s : State) : Host.Outcome State Fault Refusal :=
  if 2 ^ widthBits w ≤ s.arg0.toNat then .next (raiseFault .operandWidth s)
  else if spanHigh (widthBits w) stop < spanLow start then .next (raiseFault .bextInverted s)
  else if widthBits w < spanHigh (widthBits w) stop then .next (raiseFault .bextOutOfRange s)
  else
    .next (finish .bextDone .none
      { s with bextResult := BitVec.ofNat 64 (bitRange s.arg0.toNat (spanLow start) (spanHigh (widthBits w) stop)) })

end Sys2Proof.Machine
end

