-- ==== Sys2Proof/Machine/HeaderModel.lean ====
section
/-!
DEFINITION. The Header Model: the ordered validation, DECODE_HEADER, and the two derived values (42_header_model.md R66 to R73).
-/
namespace Sys2Proof.Machine

/-- What HeaderCheck returns (R66): ACCEPT, or a kind and the check that fired. -/
inductive Verdict where
  | accept
  | reject (kind : Result) (why : Reason)
  deriving DecidableEq, Repr

/-- `HeaderCheck(raw)` (R66): six checks in this order, the first that holds decides. SYNC is not tested (R67). -/
def headerCheck (cfg : Config) (raw : HdrWord) : Verdict :=
  let ver := hdrVersion raw
  if ver = 0b00 ∨ (ver = 0b01 ∧ cfg.version01 = .rejectMpeg25) then .reject .unsupportedFormat .mpeg25
  else if ver = 0b10 ∨ (ver = 0b01 ∧ cfg.version01 = .rejectMpeg2) then .reject .unsupportedFormat .mpeg2
  else if hdrLayer raw = 0b00 then .reject .invalidHeader .layerReserved
  else if hdrBitrateIndex raw = 0b1111 then .reject .invalidHeader .bitrateInvalid
  else if hdrSrateIndex raw = 0b11 then .reject .invalidHeader .samplingReserved
  else if hdrEmphasis raw = 0b10 then .reject .invalidHeader .emphasisReserved
  else .accept

/-- DECODE_HEADER (R69). -/
def execDecodeHeader (s : State) : Host.Outcome State Fault Refusal :=
  if 2 ^ 32 ≤ s.arg0.toNat then .next (raiseFault .operandWidth s)
  else
    match headerCheck s.cfg (s.arg0.extractLsb' 0 32) with
    | .accept => .next (finish .header .none (setHeader (s.arg0.extractLsb' 0 32) s))
    | .reject kind why => .next (finish kind why (clearHeader s))

/-- `BITRATE_TABLE[3 - LAYER][BITRATE_INDEX]` (R72). While HDR_VALID = 1 the lookup is in range (R72); outside it the answer is 0,
which no register shows. -/
def bitrateKbps (cfg : Config) (raw : HdrWord) : Word :=
  (cfg.bitrateTable.getD (3 - hdrLayer raw) []).getD (hdrBitrateIndex raw) 0

/-- `SAMPLING_TABLE[SRATE_INDEX]` (R73), the same table for every accepted version. -/
def samplingRateHz (raw : HdrWord) : Word := samplingTable.getD (hdrSrateIndex raw) 0

end Sys2Proof.Machine
end

