-- ==== Sys2Proof/Machine/Synchronizer.lean ====
section
/-!
DEFINITION. The Frame Synchronizer: the syncword predicate, the scan and the CRC skip, which are steps of NEXT_FRAME
(43_synchronizer.md R75 to R80).
-/
namespace Sys2Proof.Machine

/-- `Sync(w) := ((w >> 20) | 1) == 0xFFF` (R75). -/
def syncWord (w : HdrWord) : Bool := ((w >>> 20) ||| 1#32) == 0xFFF#32

/-- The big-endian word of four bytes, the first of them in bits [31:24] (20_memory.md R34). -/
def bigEndian (b0 b1 b2 b3 : Byte) : HdrWord := b0 ++ b1 ++ b2 ++ b3

/-- `trunc_32((cand << 8) | byte)` (R77). -/
def shiftIn (cand : HdrWord) (b : Byte) : HdrWord := (cand <<< 8) ||| b.setWidth 32

/-- What a scan leaves: the candidate found, if any, CURSOR, and the count of draws. -/
structure Scan where
  found : Option HdrWord
  cursor : Nat
  draws : Nat
  deriving DecidableEq, Repr

/-- The four reads of step 2, in the order of the pseudocode (R77, 20_memory.md R36): the word and the draws after it. -/
def readHeader (s : State) (d c : Nat) : HdrWord × Nat :=
  let r0 := memRead s d c
  let r1 := memRead s r0.2 (c + 1)
  let r2 := memRead s r1.2 (c + 2)
  let r3 := memRead s r2.2 (c + 3)
  (bigEndian r0.1 r1.1 r2.1 r3.1, r3.2)

/-- Steps 3 and 4 with `n` bytes left to read (R77): test, and on failure shift in one byte and test again. -/
def scanLoop (s : State) : Nat → HdrWord → Nat → Nat → Scan
  | 0, cand, c, d => ⟨if syncWord cand then some cand else none, c, d⟩
  | n + 1, cand, c, d =>
      if syncWord cand then ⟨some cand, c, d⟩
      else scanLoop s n (shiftIn cand (memRead s d c).1) (c + 1) (memRead s d c).2

/-- `SyncScan()` (R77). -/
def syncScan (s : State) : Scan :=
  if s.bufLen.toNat - s.cursor.toNat < 4 then ⟨none, s.cursor.toNat, s.draws⟩
  else
    let r := readHeader s s.draws s.cursor.toNat
    scanLoop s (s.bufLen.toNat - s.cursor.toNat - 4) r.1 (s.cursor.toNat + 4) r.2

/-- `CrcSkip(cand)` with CURSOR at `c` (R80): CURSOR after it, or none for NO_DATA. The CRC bytes are not read (D18). -/
def crcSkip (s : State) (cand : HdrWord) (c : Nat) : Option Nat :=
  if hdrProtection cand = 1 then some c
  else if s.bufLen.toNat - c < 2 then none
  else some (c + 2)

end Sys2Proof.Machine
end

