-- ==== Sys2Proof/Machine/Facade.lean ====
section
/-!
DEFINITION. The Decoder Facade: ATTACH and NEXT_FRAME (44_facade.md R81, R82).
-/
namespace Sys2Proof.Machine

/-- ATTACH (R81): both range checks, then the new view; the header result is cleared. -/
def execAttach (s : State) : Host.Outcome State Fault Refusal :=
  if 2 ^ s.cfg.addrW ≤ s.arg0.toNat then .next (raiseFault .attachRange s)
  else if s.arg0.toNat < s.arg1.toNat then .next (raiseFault .attachRange s)
  else .next (finish .attachedOk .none (clearHeader (attachView s.arg0 s.arg1 s)))

/-- What NEXT_FRAME does with the candidate the scan found, CURSOR just after it (R82). -/
def acceptCandidate (cand : HdrWord) (c d : Nat) (s : State) : State :=
  match headerCheck s.cfg cand with
  | .reject kind why => finish kind why (clearHeader (moveCursor c d s))
  | .accept =>
      match crcSkip s cand c with
      | none => finish .noMoreData .none (clearHeader (moveCursor c d s))
      | some c' => finish .header .none (setHeader cand (moveCursor c' d s))

/-- NEXT_FRAME (R82). -/
def execNextFrame (s : State) : Host.Outcome State Fault Refusal :=
  if s.attached = false then .next (raiseFault .notAttached s)
  else
    match (syncScan s).found with
    | none => .next (finish .noMoreData .none (clearHeader (moveCursor (syncScan s).cursor (syncScan s).draws s)))
    | some cand => .next (acceptCandidate cand (syncScan s).cursor (syncScan s).draws s)

end Sys2Proof.Machine
end

