-- ==== Sys2Proof/Machine/Dispatch.lean ====
section
/-!
DEFINITION. One arm per command (30_encoding.md R55, the `case op of`).
-/
namespace Sys2Proof.Machine

def exec (i : Instr) (s : State) : Host.Outcome State Fault Refusal :=
  match i with
  | .attach => Sys2Proof.Machine.execAttach s
  | .nextFrame => Sys2Proof.Machine.execNextFrame s
  | .decodeHeader => Sys2Proof.Machine.execDecodeHeader s
  | .bitRange w start stop => Sys2Proof.Machine.execBitRange w start stop s

end Sys2Proof.Machine
end

