-- ==== Sys2Proof/Machine/Port.lean ====
section
/-!
DEFINITION. The host's side of the block: the register map, register reads and writes, the issue of a command, stores to the
buffer memory and reset (10_state.md R16, R17; 20_memory.md R31, R37; 30_encoding.md R55; 42_header_model.md R70 to R73).
-/
namespace Sys2Proof.Machine

/-- Register numbers (10_state.md R16). -/
def regNumber : Reg → Nat
  | .cmd => 0x00
  | .arg0 => 0x01
  | .arg1 => 0x02
  | .status => 0x03
  | .cursor => 0x04
  | .bufLen => 0x05
  | .hdrRaw => 0x06
  | .bitrateKbps => 0x07
  | .samplingRateHz => 0x08
  | .bextResult => 0x09
  | .fSync => 0x10
  | .fVersionLow => 0x11
  | .fVersionSel => 0x12
  | .fLayer => 0x13
  | .fProtection => 0x14
  | .fBitrateIndex => 0x15
  | .fSrateIndex => 0x16
  | .fPadding => 0x17
  | .fPrivate => 0x18
  | .fChannelMode => 0x19
  | .fModeExt => 0x1A
  | .fCopyright => 0x1B
  | .fOriginal => 0x1C
  | .fEmphasis => 0x1D

/-- Every register, in the order of the numbers. -/
def allRegs : List Reg :=
  [.cmd, .arg0, .arg1, .status, .cursor, .bufLen, .hdrRaw, .bitrateKbps, .samplingRateHz, .bextResult,
   .fSync, .fVersionLow, .fVersionSel, .fLayer, .fProtection, .fBitrateIndex, .fSrateIndex,
   .fPadding, .fPrivate, .fChannelMode, .fModeExt, .fCopyright, .fOriginal, .fEmphasis]

/-- The register of a number; none where the number is unassigned (0x0A to 0x0F, 0x1E and above: 20_memory.md R31). -/
def regOfNumber (n : Nat) : Option Reg := allRegs.find? (regNumber · == n)

/-- A field register (42_header_model.md R70): `if HDR_VALID == 1 then zext_64(HDR_RAW[hi:lo]) else 0`. -/
def fieldReg (s : State) (hi lo : Nat) : Word :=
  if s.hdrValid then BitVec.ofNat 64 (hdrField s.hdrRaw hi lo) else 0

/-- What a register reads as (10_state.md R16); narrower values zero-extended. A read has no side effect (20_memory.md R31). -/
def readReg (s : State) : Reg → Word
  | .cmd => 0
  | .arg0 => s.arg0
  | .arg1 => s.arg1
  | .status => statusWord s
  | .cursor => s.cursor
  | .bufLen => s.bufLen
  | .hdrRaw => s.hdrRaw.setWidth 64
  | .bitrateKbps => if s.hdrValid then bitrateKbps s.cfg s.hdrRaw else 0
  | .samplingRateHz => if s.hdrValid then samplingRateHz s.hdrRaw else 0
  | .bextResult => s.bextResult
  | .fSync => fieldReg s 31 21
  | .fVersionLow => fieldReg s 20 20
  | .fVersionSel => fieldReg s 19 19
  | .fLayer => fieldReg s 18 17
  | .fProtection => fieldReg s 16 16
  | .fBitrateIndex => fieldReg s 15 12
  | .fSrateIndex => fieldReg s 11 10
  | .fPadding => fieldReg s 9 9
  | .fPrivate => fieldReg s 8 8
  | .fChannelMode => fieldReg s 7 6
  | .fModeExt => fieldReg s 5 4
  | .fCopyright => fieldReg s 3 3
  | .fOriginal => fieldReg s 2 2
  | .fEmphasis => fieldReg s 1 0

/-- A host write of `v` to CMD (30_encoding.md R55): ignored while FAULT = 1; a reserved encoding raises Fault(ILLEGAL_COMMAND)
(R57); else the command runs. One atomic step. -/
def issue (v : Word) (s : State) : Host.Outcome State Fault Refusal :=
  if s.fault then .next s
  else
    match decode v with
    | .error _ => .next (raiseFault .illegalCommand s)
    | .ok i => exec i s

/-- A host write to a register number (20_memory.md R31): CMD issues, ARG0 and ARG1 store, the read-only registers ignore it, and an
unassigned number is refused. -/
def portWrite (n : Nat) (v : Word) (s : State) : Host.Outcome State Fault Refusal :=
  match regOfNumber n with
  | none => .refused (.unassignedRegister n)
  | some .cmd => issue v s
  | some .arg0 => .next { s with arg0 := v }
  | some .arg1 => .next { s with arg1 := v }
  | some _ => .next s

/-- A host read of a register number (20_memory.md R31). The block does not change. -/
def portRead (n : Nat) (s : State) : Host.Outcome State Fault Refusal :=
  match regOfNumber n with
  | none => .refused (.unassignedRegister n)
  | some r => .next { s with readData := readReg s r }

/-- A host store to the buffer memory (20_memory.md R30, R37): the byte is kept, and if it lies in the attached buffer the later
reads of it are draws. -/
def hostStore (i : Nat) (b : Byte) (s : State) : Host.Outcome State Fault Refusal :=
  if 2 ^ s.cfg.addrW ≤ i then .fault (.noSuchBufferByte i)
  else
    .next { s with
      mem := memStore s.mem i b
      unstable := if s.attached ∧ i < s.bufLen.toNat then insertIndex s.unstable i else s.unstable }

/-- Perform one access of the host. -/
def perform (a : HostAccess) (s : State) : Host.Outcome State Fault Refusal :=
  match a with
  | .write n v => portWrite n v s
  | .read n => portRead n s
  | .store i b => hostStore i b s
  | .reset => .next (resetBlock s)

/-- Take the next access off the host's list. -/
def popAccess (rest : List HostAccess) (s : State) : State := { s with host := rest }

/-- One step (10_state.md R13, 70_reset_and_hazards.md R101): the host's next access, whole; with none pending the block is idle and
keeps its state (60_exceptions.md R97). -/
def stepAccess (s : State) : Host.Outcome State Fault Refusal :=
  match s.host with
  | [] => .next s
  | a :: rest => perform a (popAccess rest s)

/-- Put a CMD write of the command word whose low `nbits` bits are those of `w` before the host's accesses. -/
def placeCommand (nbits w : Nat) (s : State) : State :=
  { s with host := .write 0x00 (BitVec.ofNat 64 (w % 2 ^ nbits)) :: s.host }

end Sys2Proof.Machine
end

