-- ==== Sys2Proof/Machine/Step.lean ====
section
/-!
DEFINITION. One step of the machine. The block fetches no instructions (20_memory.md R43): a command reaches it as the host's write to
CMD, so `withFetchWord` puts such a write first among the host's accesses (log entry 7).
-/
namespace Sys2Proof.Machine

/-- One step: the host's next access (Machine/Port.lean). -/
def step (s : State) : Host.Outcome State Fault Refusal := stepAccess s

/-- `s` with the CMD write of the given command word as the host's next access. -/
def State.withFetchWord (s : State) (nbits w : Nat) : State := placeCommand nbits w s

end Sys2Proof.Machine
end

