-- ==== Sys2Proof/Machine/HostSyntax.lean ====
section
/-!
DEFINITION. The host command syntax (30_encoding.md R59) and its one pseudo-instruction `skip N` (R60): each line as the register
accesses it stands for.
-/
namespace Sys2Proof.Machine

/-- A line of the host syntax (R59, R60). -/
inductive HostLine where
  /-- `attach LEN, START` -/
  | attach (len start : Word)
  /-- `next_frame` -/
  | nextFrame
  /-- `decode_header WORD` -/
  | decodeHeader (word : Word)
  /-- `bit_range.uW VALUE, SB, EB` -/
  | bitRange (w : Width) (value : Word) (start stop : Bound)
  /-- `read REG` -/
  | read (r : Reg)
  /-- `skip N` -/
  | skip (n : Nat)
  deriving DecidableEq, Repr

/-- `attach LEN, START` as accesses (R59). -/
def attachAccesses (len start : Word) : List HostAccess :=
  [.write 0x01 len, .write 0x02 start, .write 0x00 0x0000000000000001]

/-- The accesses of a line. DESIGN CHOICE (log entry 20): a `bit_range` line with a position above 255 has no expansion, since no
command word carries it (R53, 92_eei_decisions.md D15). `skip N` takes the values CURSOR and BUF_LEN have when it reads them, those of
`s`. DESIGN CHOICE (log entry 16): there is no expansion where CURSOR + N has more than 64 bits, since no write to ARG1 carries it. -/
def expandLine (s : State) : HostLine → Option (List HostAccess)
  | .attach len start => some (attachAccesses len start)
  | .nextFrame => some [.write 0x00 0x0000000000000002]
  | .decodeHeader word => some [.write 0x01 word, .write 0x00 0x0000000000000003]
  | .bitRange w value start stop =>
      if (Instr.bitRange w start stop).wf then some [.write 0x01 value, .write 0x00 (encode (.bitRange w start stop))] else none
  | .read r => some [.read (regNumber r)]
  | .skip n =>
      if s.cursor.toNat + n < 2 ^ 64 then
        some ([.read (regNumber .cursor), .read (regNumber .bufLen)]
          ++ attachAccesses s.bufLen (BitVec.ofNat 64 (s.cursor.toNat + n)))
      else none

end Sys2Proof.Machine
end

