-- ==== Sys2Proof/Machine/Run.lean ====
section
/-!
DEFINITION. The run of a host program: where it ends, its observation, and when it is successful (70_reset_and_hazards.md R107). The
host program is the list of the host's accesses (log entry 7).
-/
namespace Sys2Proof.Machine

/-- Whether an access is a register access: stores go to the buffer memory, and reset is an input event (20_memory.md R30, R31;
70_reset_and_hazards.md R99). -/
def isRegisterAccess : HostAccess → Bool
  | .write _ _ => true
  | .read _ => true
  | .store _ _ => false
  | .reset => false

/-- How many accesses of a host program belong to its run: those up to and including its last register access (R107). That the
stores and resets after it are no part of the run is DEDUCED, and that a program without a register access has an empty run is a
DESIGN CHOICE (log entry 21). -/
def accessesInRun : List HostAccess → Nat
  | [] => 0
  | a :: rest => if (a :: rest).any isRegisterAccess then accessesInRun rest + 1 else 0

/-- The end of the run of the host program pending in `s`: what its last register access leaves (R107). Where an access on the way is
outside the interface the machine stops, and the run has no end state. -/
def runEnd (s : State) : Host.Outcome State Fault Refusal := Host.Core.run Sys2Proof.core (accessesInRun s.host) s

/-- The value of every register of the map (10_state.md R16), each under its number. -/
def observation (s : State) : List (Nat × Word) := allRegs.map fun r => (regNumber r, readReg s r)

/-- The observation of a run: the final value of every register (R107). -/
def runObservation (s : State) : Option (List (Nat × Word)) :=
  match runEnd s with
  | .next t => some (observation t)
  | .fault _ => none
  | .refused _ => none

/-- A run is successful only if FAULT = 0 at its end (R107). DESIGN CHOICE (log entry 21): R107 names no other condition, so FAULT = 0
is enough. -/
def successfulRun (s : State) : Prop := ∃ t, runEnd s = .next t ∧ t.fault = false

/-- A run with FAULT = 1 at its end is a faulted run (R107). -/
def faultedRun (s : State) : Prop := ∃ t, runEnd s = .next t ∧ t.fault = true

end Sys2Proof.Machine
end

