-- ==== Sys2Proof/Safety.lean ====
section
/-!
DEFINITION. The words the claims are made in: the invariant of the machine, which command a step runs, how a rejected
header is reported, and the stream a NEXT_FRAME sees (44_facade.md R83).
-/
namespace Sys2Proof
open Sys2Proof.Machine

/-- How a rejected header is reported: the verdict's kind and check, and their numbers in RESULT and REASON (10_state.md R18, R19). -/
abbrev rejectionCodes : List (Result × Reason × BitVec 4 × BitVec 4) :=
  [(.unsupportedFormat, .mpeg25, 3, 1), (.unsupportedFormat, .mpeg2, 3, 2), (.invalidHeader, .layerReserved, 4, 3),
   (.invalidHeader, .bitrateInvalid, 4, 4), (.invalidHeader, .samplingReserved, 4, 5), (.invalidHeader, .emphasisReserved, 4, 6)]

/-- The host's next access is a CMD write of instruction `i`, and the block is not halted: the step runs `i` (30_encoding.md R55). -/
abbrev Issues (s : State) (i : Instr) : Prop :=
  ∃ v rest, s.host = .write 0x00 v :: rest ∧ s.fault = false ∧ decode v = .ok i

/-- The host's next access is a reset (70_reset_and_hazards.md R99). -/
abbrev AssertsReset (s : State) : Prop := ∃ rest, s.host = .reset :: rest

/-- The command word `v` is one of the reserved encodings of 30_encoding.md R57, in the words of R55. -/
abbrev ReservedWord (v : Word) : Prop :=
  v.extractLsb' 32 32 ≠ 0#32
  ∨ (v.extractLsb' 0 4 ≠ 1#4 ∧ v.extractLsb' 0 4 ≠ 2#4 ∧ v.extractLsb' 0 4 ≠ 3#4 ∧ v.extractLsb' 0 4 ≠ 4#4)
  ∨ (v.extractLsb' 0 4 ≠ 4#4 ∧ v.extractLsb' 4 28 ≠ 0#28)
  ∨ (v.extractLsb' 0 4 = 4#4 ∧ (v.extractLsb' 10 6 ≠ 0#6 ∨ v.extractLsb' 6 2 = 3#2 ∨ v.extractLsb' 8 2 = 3#2))

/-- The byte a NEXT_FRAME issued in `s` is given for index `i`: the stored byte, or for a byte the host has written while attached
the draw it gets, the bytes from CURSOR on being read once each in rising order (20_memory.md R33, R37). -/
def streamByte (s : State) (i : Nat) : Byte :=
  if i ∈ s.unstable then
    Config.freeByte (s.draws + ((List.range' s.cursor.toNat (i - s.cursor.toNat)).filter (· ∈ s.unstable)).length)
  else memByte s.mem i

/-- The big-endian word of the four stream bytes at `m` (20_memory.md R34). -/
def streamWord (s : State) (m : Nat) : HdrWord :=
  streamByte s m ++ streamByte s (m + 1) ++ streamByte s (m + 2) ++ streamByte s (m + 3)

/-- The word has the syncword: w[31:21] == 0x7FF (43_synchronizer.md R75). -/
abbrev HasSync (w : HdrWord) : Prop := w.extractLsb' 21 11 = 0x7FF#11

/-- `m` is where the matched candidate starts: the first place at or after CURSOR whose four bytes lie in the buffer and have the
syncword (44_facade.md R83, 43_synchronizer.md R76). -/
structure FirstSync (s : State) (m : Nat) : Prop where
  fromCursor : s.cursor.toNat ≤ m
  inBuffer : m + 4 ≤ s.bufLen.toNat
  sync : HasSync (streamWord s m)
  first : ∀ k, s.cursor.toNat ≤ k → k < m → ¬ HasSync (streamWord s k)

/-- No place from CURSOR on has the syncword (R83, second row). -/
abbrev NoSync (s : State) : Prop :=
  ∀ k, s.cursor.toNat ≤ k → k + 4 ≤ s.bufLen.toNat → ¬ HasSync (streamWord s k)

/-- Fewer than 4 bytes are left of an attached stream (R83, first row; R85). -/
abbrev AtEnd (s : State) : Prop := s.attached = true ∧ s.bufLen.toNat - s.cursor.toNat < 4

/-- The invariant of the machine. -/
structure Inv (s : State) : Prop where
  /-- the parameters are within 00_scope.md R6 -/
  config : s.cfg.wf
  /-- CURSOR ≤ BUF_LEN (10_state.md R21) -/
  cursorInBuffer : s.cursor.toNat ≤ s.bufLen.toNat
  /-- BUF_LEN < 2^ADDR_W (R21) -/
  bufferInMemory : s.bufLen.toNat < 2 ^ s.cfg.addrW
  /-- without an attachment the view is empty: only ATTACH sets it (R21, R29) -/
  unattachedEmpty : s.attached = false → s.bufLen = 0 ∧ s.cursor = 0
  /-- HDR_RAW is 0 while HDR_VALID = 0 (R20) -/
  noHeader : s.hdrValid = false → s.hdrRaw = 0
  /-- HDR_VALID = 1 only with a header that the Header Model accepted (R17) -/
  headerAccepted : s.hdrValid = true → headerCheck s.cfg s.hdrRaw = .accept
  /-- RESULT = HEADER only with a valid header (R18, R20) -/
  headerResult : s.result = 1 → s.hdrValid = true
  /-- RESULT codes 7 to 15 are never written (R18) -/
  resultKnown : s.result.toNat ≤ 6
  /-- REASON names a version check under UNSUPPORTED_FORMAT (R19) -/
  unsupportedReason : s.result = 3 → s.reason = 1 ∨ s.reason = 2
  /-- REASON names a later check under INVALID_HEADER (R19) -/
  invalidReason : s.result = 4 → s.reason = 3 ∨ s.reason = 4 ∨ s.reason = 5 ∨ s.reason = 6
  /-- REASON is 0 under any other RESULT (R17, R19) -/
  noReason : s.result ≠ 3 → s.result ≠ 4 → s.reason = 0
  /-- FAULT_CAUSE is 0 while FAULT = 0 (R17) -/
  noCause : s.fault = false → s.faultCause = 0
  /-- FAULT_CAUSE is 1 to 6 while FAULT = 1 (60_exceptions.md R90) -/
  causeKnown : s.fault = true → 1 ≤ s.faultCause.toNat ∧ s.faultCause.toNat ≤ 6
  /-- the buffer memory is in canonical form -/
  memCanonical : Memory.wf s.mem
  /-- every stored byte lies in the buffer memory's 2^ADDR_W bytes (20_memory.md R30) -/
  memInSpace : ∀ cell ∈ s.mem, cell.1 < 2 ^ s.cfg.addrW
  /-- the draws' indices are listed once each, rising -/
  unstableRising : s.unstable.Pairwise (· < ·)
  /-- only attached bytes are drawn (20_memory.md R37) -/
  unstableAttached : ∀ i ∈ s.unstable, i < s.bufLen.toNat

end Sys2Proof
end

