-- ==== Sys2Proof/Certificates/Slice0/Obligations.lean ====
section
/-!
DEFINITION. The statements for the provers, from the numbered rules of spec/. A statement about `exec` has the precondition the rules
of the commands give it, FAULT = 0, which the issue of a command checks (30_encoding.md R55). Where a step is stated, `host` is the
model's list of the host's pending accesses (log entry 7), `draws` and `Config.freeByte` are the free value of 20_memory.md R37 (log
entry 6), and `cfg` holds the parameters of 00_scope.md R6 (log entry 1); nothing rests on their values.
-/
open Sys2Proof
open Sys2Proof.Machine

/-! Encodings. -/

/-- 30_encoding.md R53, R54: every well-formed command, every bound position from 0 to 255, decodes back from its word. -/
def Obligations.DecodeOfEncodeIsIdentity : Prop :=
  ∀ i : Instr, i.wf = true → decode (encode i) = .ok i

/-- 30_encoding.md R53, R59: the encoding of what a word decodes to is that word, with the position field of an unbounded bound (SPOS
[23:16] under SKIND 00, EPOS [31:24] under EKIND 00, which R53 ignores) cleared; and what is decoded is well-formed. -/
def Obligations.EncodeOfDecodeClearsIgnoredPositions : Prop :=
  ∀ (v : Word) (i : Instr), decode v = .ok i →
    i.wf = true ∧
    encode i = v &&& ~~~((if v.extractLsb' 6 2 = 0#2 then 0x0000000000FF0000#64 else 0#64)
      ||| (if v.extractLsb' 8 2 = 0#2 then 0x00000000FF000000#64 else 0#64))

/-- 30_encoding.md R57: exactly the reserved encodings are no command, and a CMD write of one, while FAULT = 0, raises
Fault(ILLEGAL_COMMAND), which is cause 1, and changes nothing else. -/
def Obligations.ReservedEncodingsRaiseIllegalCommand : Prop :=
  ∀ v : Word,
    (ReservedWord v ↔ ¬ ∃ i, decode v = .ok i) ∧
    (ReservedWord v → ∀ (s : State) (rest : List HostAccess), s.host = .write 0x00 v :: rest → s.fault = false →
      step s = .next { s with host := rest, fault := true, faultCause := 1 })

/-- Words written out from 30_encoding.md R53, R54 and R59, each with the command it stands for. -/
def Obligations.WordsOfTheEncodingTables : Prop :=
  decode 0x0000000000000001 = .ok .attach ∧
  decode 0x0000000000000002 = .ok .nextFrame ∧
  decode 0x0000000000000003 = .ok .decodeHeader ∧
  decode 0x00000000100C0264 = .ok (.bitRange .w32 (.included 12) (.excluded 16)) ∧
  decode 0x0000000008030284 = .ok (.bitRange .w8 (.excluded 3) (.excluded 8)) ∧
  decode 0x00000000FFFF0174 = .ok (.bitRange .w64 (.included 255) (.included 255)) ∧
  decode 0x0000000000000014 = .ok (.bitRange .w16 .unbounded .unbounded)

/-- 30_encoding.md R59: each line of the host syntax expands to the register writes of the table; `read REG` to a read; the bounds of
`bit_range`, with any position that has an encoding (0 to 255, R53), are encoded as R53 has them. -/
def Obligations.HostLinesExpandAsTheTableSays : Prop :=
  ∀ s : State,
    (∀ len start, expandLine s (.attach len start) = some [.write 0x01 len, .write 0x02 start, .write 0x00 1]) ∧
    expandLine s .nextFrame = some [.write 0x00 2] ∧
    (∀ word, expandLine s (.decodeHeader word) = some [.write 0x01 word, .write 0x00 3]) ∧
    (∀ w value start stop, start.wf = true → stop.wf = true →
      ∃ cmd, expandLine s (.bitRange w value start stop) = some [.write 0x01 value, .write 0x00 cmd] ∧
      cmd = 0x4 ||| (w.sel.setWidth 64 <<< 4) ||| (start.kind.setWidth 64 <<< 6) ||| (stop.kind.setWidth 64 <<< 8)
        ||| (start.posField.setWidth 64 <<< 16) ||| (stop.posField.setWidth 64 <<< 24)) ∧
    (∀ r, expandLine s (.read r) = some [.read (regNumber r)]) ∧
    expandLine s (.bitRange .w32 0xFFFD8000 (.included 12) (.excluded 16))
      = some [.write 0x01 0xFFFD8000, .write 0x00 0x00000000100C0264]

/-- The model's choice (log entries 16 and 20): the only lines without an expansion are a `bit_range` line with a position above 255
and a `skip N` with CURSOR + N of more than 64 bits. -/
def Obligations.LinesWithoutAnExpansion : Prop :=
  ∀ (s : State) (line : HostLine), expandLine s line = none ↔
    (∃ w value start stop, line = .bitRange w value start stop ∧
      ∃ p, 256 ≤ p ∧ (start = .included p ∨ start = .excluded p ∨ stop = .included p ∨ stop = .excluded p)) ∨
    (∃ n, line = .skip n ∧ 2 ^ 64 ≤ s.cursor.toNat + n)

/-! Steps. -/

/-- 30_encoding.md R55: a CMD write of a word that decodes to `i`, while FAULT = 0, is one step that runs exactly `i`, on the state with
that access taken off the host's list. -/
def Obligations.StepRunsTheDecodedCommand : Prop :=
  ∀ (s : State) (v : Word) (rest : List HostAccess) (i : Instr),
    s.host = .write 0x00 v :: rest → s.fault = false → decode v = .ok i → step s = exec i { s with host := rest }

/-- 60_exceptions.md R97: with no access pending the block keeps all its state. -/
def Obligations.IdleBlockKeepsItsState : Prop :=
  ∀ s : State, s.host = [] → step s = .next s

/-- 70_reset_and_hazards.md R106: every command, in every state, answers a next state. -/
def Obligations.EveryCommandCompletes : Prop :=
  ∀ (i : Instr) (s : State), ∃ t, exec i s = .next t

/-- 20_memory.md R30, R31: a step stops only on a host access outside the interface, by name: an unassigned register number (0x0A to
0x0F, 0x1E and above) is refused, a store outside the 2^ADDR_W bytes faults (the second is log entry 9); and on each of these it
stops. -/
def Obligations.StepStopsOnlyOutsideTheInterface : Prop :=
  ∀ s : State,
    (∀ r, step s = .refused r ↔
      ∃ n rest, r = .unassignedRegister n ∧ ((0x0A ≤ n ∧ n ≤ 0x0F) ∨ 0x1E ≤ n) ∧
        (s.host = .read n :: rest ∨ ∃ v, s.host = .write n v :: rest)) ∧
    (∀ f, step s = .fault f ↔
      ∃ i b rest, f = .noSuchBufferByte i ∧ 2 ^ s.cfg.addrW ≤ i ∧ s.host = .store i b :: rest)

/-- 20_memory.md R31, the register writes other than CMD: ARG0 and ARG1 store all 64 bits whatever FAULT is, and a write to a read-only
register (0x03 to 0x09, 0x10 to 0x1D) changes no state but the taking of the access. -/
def Obligations.PortWritesStoreOrAreIgnored : Prop :=
  ∀ (s : State) (n : Nat) (v : Word) (rest : List HostAccess), s.host = .write n v :: rest →
    (n = 0x01 → step s = .next { s with host := rest, arg0 := v }) ∧
    (n = 0x02 → step s = .next { s with host := rest, arg1 := v }) ∧
    ((0x03 ≤ n ∧ n ≤ 0x09) ∨ (0x10 ≤ n ∧ n ≤ 0x1D) → step s = .next { s with host := rest })

/-- 10_state.md R16, 20_memory.md R31, 42_header_model.md R70: what a read of each of the 24 numbers of the map returns, zero-extended,
CMD reading 0 and the field registers their bits of HDR_RAW; the block does not change. The tables behind 0x07 and 0x08 are
DerivedRegistersLookUpTheTables'. `readData` is the model's own (log entry 8). -/
def Obligations.PortReadsReturnTheRegisters : Prop :=
  ∀ (s : State) (n : Nat) (rest : List HostAccess), s.host = .read n :: rest →
    let answers : Word → Prop := fun v => step s = .next { s with host := rest, readData := v }
    let field : Nat → Nat → Word := fun hi lo => if s.hdrValid then (s.hdrRaw.extractLsb' lo (hi + 1 - lo)).setWidth 64 else 0
    (n = 0x00 → answers 0) ∧ (n = 0x01 → answers s.arg0) ∧ (n = 0x02 → answers s.arg1) ∧ (n = 0x03 → answers (statusWord s)) ∧
    (n = 0x04 → answers s.cursor) ∧ (n = 0x05 → answers s.bufLen) ∧ (n = 0x06 → answers (s.hdrRaw.setWidth 64)) ∧
    (n = 0x07 → answers (readReg s .bitrateKbps)) ∧ (n = 0x08 → answers (readReg s .samplingRateHz)) ∧
    (n = 0x09 → answers s.bextResult) ∧
    (n = 0x10 → answers (field 31 21)) ∧ (n = 0x11 → answers (field 20 20)) ∧ (n = 0x12 → answers (field 19 19)) ∧
    (n = 0x13 → answers (field 18 17)) ∧ (n = 0x14 → answers (field 16 16)) ∧ (n = 0x15 → answers (field 15 12)) ∧
    (n = 0x16 → answers (field 11 10)) ∧ (n = 0x17 → answers (field 9 9)) ∧ (n = 0x18 → answers (field 8 8)) ∧
    (n = 0x19 → answers (field 7 6)) ∧ (n = 0x1A → answers (field 5 4)) ∧ (n = 0x1B → answers (field 3 3)) ∧
    (n = 0x1C → answers (field 2 2)) ∧ (n = 0x1D → answers (field 1 0))

/-- 10_state.md R17: the fields of STATUS, and its reserved bits [11] and [63:16] read 0. -/
def Obligations.StatusFieldsStandWhereTheTableSays : Prop :=
  ∀ s : State,
    (statusWord s).extractLsb' 0 4 = s.result ∧
    (statusWord s).extractLsb' 4 4 = s.reason ∧
    (statusWord s).getLsbD 8 = s.hdrValid ∧
    (statusWord s).getLsbD 9 = s.attached ∧
    (statusWord s).getLsbD 10 = s.fault ∧
    (statusWord s).getLsbD 11 = false ∧
    (statusWord s).extractLsb' 12 4 = s.faultCause ∧
    (statusWord s).extractLsb' 16 48 = 0#48

/-- 10_state.md R16, 70_reset_and_hazards.md R107: the map assigns the numbers 0x00 to 0x09 and 0x10 to 0x1D, one register each, and the
observation of a state holds the value of every register of the map under its number, and nothing else. -/
def Obligations.ObservationHoldsTheWholeRegisterMap : Prop :=
  (∀ n, (∃ r, regOfNumber n = some r) ↔ n ≤ 0x09 ∨ (0x10 ≤ n ∧ n ≤ 0x1D)) ∧
  (∀ n r, regOfNumber n = some r ↔ regNumber r = n) ∧
  (∀ (s : State) (n : Nat) (v : Word), (n, v) ∈ observation s ↔ ∃ r, regNumber r = n ∧ readReg s r = v)

/-- From 70_reset_and_hazards.md R107: the run of a host program ends with its last register access, `a`, at the state after the
accesses up to and including `a`; its observation is the value of every register of the map there; with FAULT = 1 there it is a faulted
run, never a successful one. Two clauses are the model's reading (log entry 21): that stores and resets after `a` are no part of the run
(DEDUCED), and that FAULT = 0 at the end is enough for success, where R107 says "only if" (DESIGN CHOICE). -/
def Obligations.RunEndsWithTheLastRegisterAccess : Prop :=
  ∀ (s : State) (before after : List HostAccess) (a : HostAccess), s.host = before ++ a :: after →
    ((∃ n v, a = .write n v) ∨ ∃ n, a = .read n) → (∀ b ∈ after, (∃ i x, b = .store i x) ∨ b = .reset) →
    runEnd s = Host.Core.run Sys2Proof.core (before.length + 1) s ∧
    (∀ t, runEnd s = .next t →
      t.host = after ∧ (successfulRun s ↔ t.fault = false) ∧ (faultedRun s ↔ t.fault = true) ∧
      ∃ values, runObservation s = some values ∧ ∀ n v, (n, v) ∈ values ↔ ∃ r, regNumber r = n ∧ readReg t r = v) ∧
    ¬ (faultedRun s ∧ successfulRun s)

/-- The model's choice (log entry 21): a host program without a register access, of which 70_reset_and_hazards.md R107 says nothing, has
an empty run. -/
def Obligations.ProgramWithoutARegisterAccessHasAnEmptyRun : Prop :=
  ∀ s : State, (∀ b ∈ s.host, (∃ i x, b = .store i x) ∨ b = .reset) → runEnd s = .next s

/-! Reset. -/

/-- 10_state.md R29, 70_reset_and_hazards.md R99: every item of block state at reset. -/
def Obligations.ResetStateHasTheListedValues : Prop :=
  State.reset.attached = false ∧ State.reset.bufLen = 0 ∧ State.reset.cursor = 0 ∧ State.reset.arg0 = 0 ∧
  State.reset.arg1 = 0 ∧ State.reset.hdrValid = false ∧ State.reset.hdrRaw = 0 ∧ State.reset.result = 0 ∧
  State.reset.reason = 0 ∧ State.reset.bextResult = 0 ∧ State.reset.fault = false ∧ State.reset.faultCause = 0

/-- 70_reset_and_hazards.md R99: a reset asserted in any state, a faulted one too, puts every item of block state at its value of
10_state.md R29, and leaves the buffer memory and the parameters. -/
def Obligations.ResetEventClearsTheBlock : Prop :=
  ∀ (s : State) (rest : List HostAccess), s.host = .reset :: rest →
    ∃ t, step s = .next t ∧
      t.attached = false ∧ t.bufLen = 0 ∧ t.cursor = 0 ∧ t.arg0 = 0 ∧ t.arg1 = 0 ∧ t.hdrValid = false ∧ t.hdrRaw = 0 ∧
      t.result = 0 ∧ t.reason = 0 ∧ t.bextResult = 0 ∧ t.fault = false ∧ t.faultCause = 0 ∧
      t.cfg = s.cfg ∧ t.mem = s.mem ∧ ∀ a, memByte t.mem a = memByte s.mem a

/-! The contract fault. -/

/-- 60_exceptions.md R92: while FAULT = 1 a CMD write executes nothing, ARG0 and ARG1 still store, and a read of every register still
returns its value. -/
def Obligations.HaltedBlockIgnoresCommands : Prop :=
  ∀ (s : State) (rest : List HostAccess), s.fault = true →
    (∀ v, s.host = .write 0x00 v :: rest → step s = .next { s with host := rest }) ∧
    (∀ v, s.host = .write 0x01 v :: rest → step s = .next { s with host := rest, arg0 := v }) ∧
    (∀ v, s.host = .write 0x02 v :: rest → step s = .next { s with host := rest, arg1 := v }) ∧
    (∀ r, s.host = .read (regNumber r) :: rest → step s = .next { s with host := rest, readData := readReg s r })

/-- 60_exceptions.md R92, 10_state.md R24: from a faulted state, every step but a reset leaves FAULT and FAULT_CAUSE, and of the rest of
the block only ARG0 and ARG1 can change. -/
def Obligations.FaultIsStickyUntilReset : Prop :=
  ∀ s t : State, s.fault = true → step s = .next t → ¬ AssertsReset s →
    t.fault = true ∧ t.faultCause = s.faultCause ∧ t.attached = s.attached ∧ t.bufLen = s.bufLen ∧ t.cursor = s.cursor ∧
    t.hdrValid = s.hdrValid ∧ t.hdrRaw = s.hdrRaw ∧ t.result = s.result ∧ t.reason = s.reason ∧ t.bextResult = s.bextResult

/-- 60_exceptions.md R89: a step that enters the contract-fault state changes FAULT and FAULT_CAUSE and nothing else (but the taking of
the access), the cause being 1 to 6 (R90). -/
def Obligations.FaultEntryIsPrecise : Prop :=
  ∀ s t : State, step s = .next t → s.fault = false → t.fault = true →
    ∃ a rest cause, s.host = a :: rest ∧ t = { s with host := rest, fault := true, faultCause := cause } ∧
      1 ≤ cause.toNat ∧ cause.toNat ≤ 6

/-! BIT_RANGE. -/

/-- 41_bit_range.md R61: the span of every pair of bounds, for every operand width W. -/
def Obligations.BoundsResolveToTheSpan : Prop :=
  ∀ w p : Nat,
    spanLow .unbounded = 0 ∧ spanLow (.included p) = p ∧ spanLow (.excluded p) = p + 1 ∧
    spanHigh w .unbounded = w ∧ spanHigh w (.included p) = p + 1 ∧ spanHigh w (.excluded p) = p

/-- 41_bit_range.md R65: a BIT_RANGE whose operand fits W = 8 << WSEL and whose span is legal writes the value law R63 to BEXT_RESULT,
RESULT = 5 and REASON = 0, and changes nothing else. -/
def Obligations.BitRangeExtractsTheField : Prop :=
  ∀ (w : Width) (start stop : Bound) (s : State), s.fault = false →
    s.arg0.toNat < 2 ^ (8 <<< w.sel.toNat) →
    spanLow start ≤ spanHigh (8 <<< w.sel.toNat) stop → spanHigh (8 <<< w.sel.toNat) stop ≤ 8 <<< w.sel.toNat →
    exec (.bitRange w start stop) s = .next { s with
      bextResult := BitVec.ofNat 64
        ((s.arg0.toNat >>> spanLow start) &&& (2 ^ (spanHigh (8 <<< w.sel.toNat) stop - spanLow start) - 1))
      result := 5
      reason := 0 }

/-- 41_bit_range.md R62, 60_exceptions.md R90: the three contract checks in their order, the first that holds raising its fault. -/
def Obligations.BitRangeChecksInOrder : Prop :=
  ∀ (w : Width) (start stop : Bound) (s : State), s.fault = false →
    (2 ^ (8 <<< w.sel.toNat) ≤ s.arg0.toNat →
      exec (.bitRange w start stop) s = .next { s with fault := true, faultCause := 4 }) ∧
    (s.arg0.toNat < 2 ^ (8 <<< w.sel.toNat) → spanHigh (8 <<< w.sel.toNat) stop < spanLow start →
      exec (.bitRange w start stop) s = .next { s with fault := true, faultCause := 5 }) ∧
    (s.arg0.toNat < 2 ^ (8 <<< w.sel.toNat) → spanLow start ≤ spanHigh (8 <<< w.sel.toNat) stop →
      8 <<< w.sel.toNat < spanHigh (8 <<< w.sel.toNat) stop →
      exec (.bitRange w start stop) s = .next { s with fault := true, faultCause := 6 })

/-- 41_bit_range.md R63: the source's own procedure on a W-bit vector (clear the bits from high up by shifting left and right by
W - high, clear the bits below low, shift right by low) gives what BIT_RANGE writes; the value is below 2^(high - low), so an empty
span gives 0. -/
def Obligations.ExtractorEqualsTheSourceProcedure : Prop :=
  ∀ (w : Width) (start stop : Bound) (s t : State), s.fault = false → exec (.bitRange w start stop) s = .next t →
    t.fault = false →
    let v : BitVec (widthBits w) := s.arg0.setWidth (widthBits w)
    let low := spanLow start
    let high := spanHigh (widthBits w) stop
    t.bextResult.toNat = (((((v <<< (widthBits w - high)) >>> (widthBits w - high)) >>> low) <<< low) >>> low).toNat ∧
    t.bextResult.toNat < 2 ^ (high - low) ∧
    ∀ k, t.bextResult.getLsbD k = (decide (k < high - low) && s.arg0.getLsbD (low + k))

/-! DECODE_HEADER and the Header Model. -/

/-- 42_header_model.md R66: the ordered chain over the bits of the word, for every value of P_VERSION_01. -/
def Obligations.HeaderChecksRunInOrder : Prop :=
  ∀ (cfg : Config) (raw : HdrWord),
    headerCheck cfg raw =
      if raw.extractLsb' 19 2 = 0b00#2 ∨ (raw.extractLsb' 19 2 = 0b01#2 ∧ cfg.version01 = .rejectMpeg25) then
        .reject .unsupportedFormat .mpeg25
      else if raw.extractLsb' 19 2 = 0b10#2 ∨ (raw.extractLsb' 19 2 = 0b01#2 ∧ cfg.version01 = .rejectMpeg2) then
        .reject .unsupportedFormat .mpeg2
      else if raw.extractLsb' 17 2 = 0b00#2 then .reject .invalidHeader .layerReserved
      else if raw.extractLsb' 12 4 = 0b1111#4 then .reject .invalidHeader .bitrateInvalid
      else if raw.extractLsb' 10 2 = 0b11#2 then .reject .invalidHeader .samplingReserved
      else if raw.extractLsb' 0 2 = 0b10#2 then .reject .invalidHeader .emphasisReserved
      else .accept

/-- 42_header_model.md R68 (a) to (e) and 10_state.md R18, R19, in the numbers of RESULT (3 UNSUPPORTED_FORMAT, 4 INVALID_HEADER) and
REASON (1 to 6): what DECODE_HEADER reports of a word with VERSION = 11 and a reserved code, and of VERSION = 00 and 10, for every
value of P_VERSION_01. -/
def Obligations.ReservedCodesAreReported : Prop :=
  ∀ s : State, s.fault = false → s.arg0.toNat < 2 ^ 32 →
    let ver := s.arg0.extractLsb' 19 2
    let layer := s.arg0.extractLsb' 17 2
    let bitrate := s.arg0.extractLsb' 12 4
    let srate := s.arg0.extractLsb' 10 2
    let emphasis := s.arg0.extractLsb' 0 2
    let reports : BitVec 4 → BitVec 4 → Prop := fun result reason =>
      exec .decodeHeader s = .next { s with hdrRaw := 0, hdrValid := false, result := result, reason := reason }
    (ver = 0b11#2 → layer = 0b00#2 → reports 4 3) ∧
    (ver = 0b11#2 → layer ≠ 0b00#2 → bitrate = 0b1111#4 → reports 4 4) ∧
    (ver = 0b11#2 → layer ≠ 0b00#2 → bitrate ≠ 0b1111#4 → srate = 0b11#2 → reports 4 5) ∧
    (ver = 0b11#2 → layer ≠ 0b00#2 → bitrate ≠ 0b1111#4 → srate ≠ 0b11#2 → emphasis = 0b10#2 → reports 4 6) ∧
    (ver = 0b00#2 → reports 3 1) ∧
    (ver = 0b10#2 → reports 3 2) ∧
    (ver = 0b11#2 → bitrate = 0b1111#4 → reports 4 (if layer = 0b00#2 then 3 else 4)) ∧
    (ver = 0b11#2 → srate = 0b11#2 → ∃ reason, reports 4 reason) ∧
    (ver = 0b11#2 → emphasis = 0b10#2 → ∃ reason, reports 4 reason)

/-- 42_header_model.md R67: the check does not depend on SYNC, raw[31:21]; so DECODE_HEADER accepts a word, whatever its top 11 bits,
that passes the checks under any other top bits; and on the NEXT_FRAME path every accepted header has SYNC = 0x7FF. -/
def Obligations.SyncIsTestedOnlyByTheSynchronizer : Prop :=
  (∀ (cfg : Config) (raw raw' : HdrWord), raw.extractLsb' 0 21 = raw'.extractLsb' 0 21 →
    headerCheck cfg raw = headerCheck cfg raw') ∧
  (∀ (s : State) (sync : BitVec 11), s.fault = false → s.arg0.toNat < 2 ^ 32 →
    headerCheck s.cfg (sync ++ s.arg0.extractLsb' 0 21) = .accept →
    ∃ t, exec .decodeHeader s = .next t ∧ t.result = 1 ∧ t.hdrValid = true ∧ t.hdrRaw = s.arg0.extractLsb' 0 32) ∧
  (∀ s t : State, s.fault = false → s.attached = true → exec .nextFrame s = .next t → t.result = 1 →
    t.hdrRaw.extractLsb' 21 11 = 0x7FF#11)

/-- 42_header_model.md R69: DECODE_HEADER of an ARG0 below 2^32, accepted, or rejected with the number of its kind in RESULT and
of the check that fired in REASON (10_state.md R18, R19), and its OPERAND_WIDTH fault (cause 4) for any other ARG0; nothing else
changes. It needs no attachment. -/
def Obligations.DecodeHeaderValidatesTheWord : Prop :=
  ∀ s : State, s.fault = false →
    (2 ^ 32 ≤ s.arg0.toNat → exec .decodeHeader s = .next { s with fault := true, faultCause := 4 }) ∧
    (s.arg0.toNat < 2 ^ 32 → headerCheck s.cfg (s.arg0.extractLsb' 0 32) = .accept →
      exec .decodeHeader s = .next { s with hdrRaw := s.arg0.extractLsb' 0 32, hdrValid := true, result := 1, reason := 0 }) ∧
    (∀ kind why, s.arg0.toNat < 2 ^ 32 → headerCheck s.cfg (s.arg0.extractLsb' 0 32) = .reject kind why →
      ∃ result reason, (kind, why, result, reason) ∈ rejectionCodes ∧
        exec .decodeHeader s = .next { s with hdrRaw := 0, hdrValid := false, result := result, reason := reason })

/-- 42_header_model.md R70: every field register, by its bits, while HDR_VALID = 1, and 0 while HDR_VALID = 0. -/
def Obligations.FieldRegistersReadTheHeaderBits : Prop :=
  ∀ s : State,
    let f : Nat → Nat → Word := fun hi lo => if s.hdrValid then (s.hdrRaw.extractLsb' lo (hi + 1 - lo)).setWidth 64 else 0
    readReg s .fSync = f 31 21 ∧ readReg s .fVersionLow = f 20 20 ∧ readReg s .fVersionSel = f 19 19 ∧
    readReg s .fLayer = f 18 17 ∧ readReg s .fProtection = f 16 16 ∧ readReg s .fBitrateIndex = f 15 12 ∧
    readReg s .fSrateIndex = f 11 10 ∧ readReg s .fPadding = f 9 9 ∧ readReg s .fPrivate = f 8 8 ∧
    readReg s .fChannelMode = f 7 6 ∧ readReg s .fModeExt = f 5 4 ∧ readReg s .fCopyright = f 3 3 ∧
    readReg s .fOriginal = f 2 2 ∧ readReg s .fEmphasis = f 1 0

/-- 42_header_model.md R70, its last part: in every state that meets the invariant, a valid header shows no reserved code. -/
def Obligations.ValidHeaderShowsNoReservedCode : Prop :=
  ∀ s : State, Inv s → s.hdrValid = true →
    readReg s .fLayer ≠ 0 ∧ readReg s .fBitrateIndex ≠ 15 ∧ readReg s .fSrateIndex ≠ 3 ∧ readReg s .fEmphasis ≠ 2

/-- 42_header_model.md R72, R73: in every state that meets the invariant and holds a valid header both lookups are in range, row
3 - LAYER and entry BITRATE_INDEX of BITRATE_TABLE, whatever the table, and {44100, 48000, 32000} by SRATE_INDEX; BITRATE_INDEX 0 reads
0; and both registers read 0 while HDR_VALID = 0. -/
def Obligations.DerivedRegistersLookUpTheTables : Prop :=
  ∀ s : State,
    (Inv s → s.hdrValid = true →
      (∃ row, s.cfg.bitrateTable[3 - (s.hdrRaw.extractLsb' 17 2).toNat]? = some row ∧
        row[(s.hdrRaw.extractLsb' 12 4).toNat]? = some (readReg s .bitrateKbps)) ∧
      (s.hdrRaw.extractLsb' 12 4 = 0#4 → readReg s .bitrateKbps = 0) ∧
      [44100, 48000, 32000][(s.hdrRaw.extractLsb' 10 2).toNat]? = some (readReg s .samplingRateHz)) ∧
    (s.hdrValid = false → readReg s .bitrateKbps = 0 ∧ readReg s .samplingRateHz = 0)

/-- 42_header_model.md R74: any legal field values, packed by 30_encoding.md R45 and decoded, are accepted and read back, field by
field. -/
def Obligations.HeaderFieldsRoundTrip : Prop :=
  ∀ (s : State) (sync : BitVec 11) (layer : BitVec 2) (prot : BitVec 1) (bitrate : BitVec 4) (srate : BitVec 2)
    (padding priv : BitVec 1) (mode ext : BitVec 2) (copyright original : BitVec 1) (emphasis : BitVec 2),
    layer ≠ 0b00#2 → bitrate ≠ 0b1111#4 → srate ≠ 0b11#2 → emphasis ≠ 0b10#2 → s.fault = false →
    s.arg0 = (sync ++ 0b11#2 ++ layer ++ prot ++ bitrate ++ srate ++ padding ++ priv ++ mode ++ ext ++ copyright ++ original
      ++ emphasis).setWidth 64 →
    ∃ t, exec .decodeHeader s = .next t ∧ t.result = 1 ∧ t.hdrValid = true ∧
      readReg t .fSync = sync.setWidth 64 ∧ readReg t .fVersionLow = 1 ∧ readReg t .fVersionSel = 1 ∧
      readReg t .fLayer = layer.setWidth 64 ∧ readReg t .fProtection = prot.setWidth 64 ∧
      readReg t .fBitrateIndex = bitrate.setWidth 64 ∧ readReg t .fSrateIndex = srate.setWidth 64 ∧
      readReg t .fPadding = padding.setWidth 64 ∧ readReg t .fPrivate = priv.setWidth 64 ∧
      readReg t .fChannelMode = mode.setWidth 64 ∧ readReg t .fModeExt = ext.setWidth 64 ∧
      readReg t .fCopyright = copyright.setWidth 64 ∧ readReg t .fOriginal = original.setWidth 64 ∧
      readReg t .fEmphasis = emphasis.setWidth 64

/-! ATTACH. -/

/-- 44_facade.md R81: ATTACH of a length below 2^ADDR_W and a start at most the length, and its ATTACH_RANGE fault (cause 3) otherwise,
whether or not a buffer is attached. `unstable := []` ends the draws of 20_memory.md R37. -/
def Obligations.AttachPlacesTheView : Prop :=
  ∀ s : State, s.fault = false →
    (2 ^ s.cfg.addrW ≤ s.arg0.toNat ∨ s.arg0.toNat < s.arg1.toNat →
      exec .attach s = .next { s with fault := true, faultCause := 3 }) ∧
    (s.arg0.toNat < 2 ^ s.cfg.addrW → s.arg1.toNat ≤ s.arg0.toNat →
      exec .attach s = .next { s with
        bufLen := s.arg0, cursor := s.arg1, attached := true, hdrRaw := 0, hdrValid := false, result := 6, reason := 0
        unstable := [] })

/-! NEXT_FRAME. -/

/-- 44_facade.md R82: NEXT_FRAME without an attached buffer raises Fault(NOT_ATTACHED), cause 2. -/
def Obligations.NextFrameNeedsAnAttachment : Prop :=
  ∀ s : State, s.fault = false → s.attached = false →
    exec .nextFrame s = .next { s with fault := true, faultCause := 2 }

/-- 44_facade.md R83, 43_synchronizer.md R77, R79, R80: every row of the outcome table, `m` being the first place from CURSOR on whose
four stream bytes have the syncword. `rejectionCodes` has the numbers of 10_state.md R18 and R19. It holds of bytes that
are draws too (20_memory.md R37): `streamByte` is the byte each read is given, and `d` the count of draws after it, which nothing
constrains. That each byte is read once in a NEXT_FRAME, so that it has one draw, is the model's choice (log entry 19, DEDUCED). -/
def Obligations.NextFrameOutcomeTable : Prop :=
  ∀ s : State, s.fault = false → s.attached = true →
    (s.bufLen.toNat - s.cursor.toNat < 4 →
      exec .nextFrame s = .next { s with hdrRaw := 0, hdrValid := false, result := 2, reason := 0 }) ∧
    (4 ≤ s.bufLen.toNat - s.cursor.toNat → NoSync s →
      ∃ d, exec .nextFrame s = .next { s with
        cursor := s.bufLen, draws := d, hdrRaw := 0, hdrValid := false, result := 2, reason := 0 }) ∧
    (∀ m, FirstSync s m →
      (∀ kind why, headerCheck s.cfg (streamWord s m) = .reject kind why →
        ∃ d result reason, (kind, why, result, reason) ∈ rejectionCodes ∧ exec .nextFrame s = .next { s with
          cursor := BitVec.ofNat 64 (m + 4), draws := d, hdrRaw := 0, hdrValid := false, result := result, reason := reason }) ∧
      (headerCheck s.cfg (streamWord s m) = .accept → (streamWord s m).getLsbD 16 = true →
        ∃ d, exec .nextFrame s = .next { s with
          cursor := BitVec.ofNat 64 (m + 4), draws := d, hdrRaw := streamWord s m, hdrValid := true, result := 1, reason := 0 }) ∧
      (headerCheck s.cfg (streamWord s m) = .accept → (streamWord s m).getLsbD 16 = false → 2 ≤ s.bufLen.toNat - (m + 4) →
        ∃ d, exec .nextFrame s = .next { s with
          cursor := BitVec.ofNat 64 (m + 6), draws := d, hdrRaw := streamWord s m, hdrValid := true, result := 1, reason := 0 }) ∧
      (headerCheck s.cfg (streamWord s m) = .accept → (streamWord s m).getLsbD 16 = false → s.bufLen.toNat - (m + 4) < 2 →
        ∃ d, exec .nextFrame s = .next { s with
          cursor := BitVec.ofNat 64 (m + 4), draws := d, hdrRaw := 0, hdrValid := false, result := 2, reason := 0 }))

/-- 44_facade.md R82: with a buffer attached NEXT_FRAME completes in every state, without a fault, with one of the four results, and
REASON is 0 unless the result is a header error. -/
def Obligations.NextFrameCompletes : Prop :=
  ∀ s : State, s.fault = false → s.attached = true →
    ∃ t, exec .nextFrame s = .next t ∧ t.fault = false ∧
      ((t.result = 1 ∧ t.reason = 0 ∧ t.hdrValid = true) ∨ (t.result = 2 ∧ t.reason = 0 ∧ t.hdrValid = false) ∨
        (t.result = 3 ∧ (t.reason = 1 ∨ t.reason = 2) ∧ t.hdrValid = false) ∨
        (t.result = 4 ∧ (t.reason = 3 ∨ t.reason = 4 ∨ t.reason = 5 ∨ t.reason = 6) ∧ t.hdrValid = false))

/-- 43_synchronizer.md R75: Sync(w) holds exactly when w[31:21] == 0x7FF. -/
def Obligations.SyncPredicateTestsElevenBits : Prop :=
  ∀ w : HdrWord, syncWord w = true ↔ w.extractLsb' 21 11 = 0x7FF#11

/-- 20_memory.md R34: the byte at the lowest index becomes bits [31:24], and shifting a further byte in keeps the word big-endian over
the last four bytes. -/
def Obligations.HeaderBytesAssembleBigEndian : Prop :=
  ∀ b0 b1 b2 b3 b4 : Byte,
    (bigEndian b0 b1 b2 b3).toNat = (b0.toNat <<< 24) ||| (b1.toNat <<< 16) ||| (b2.toNat <<< 8) ||| b3.toNat ∧
    shiftIn (bigEndian b0 b1 b2 b3) b4 = bigEndian b1 b2 b3 b4

/-- 70_reset_and_hazards.md R104: a NEXT_FRAME that finds a candidate advances CURSOR by at least 4. For bytes that are draws the
candidate is that of log entry 19 (each byte read once, DEDUCED). -/
def Obligations.FindingACandidateMakesProgress : Prop :=
  ∀ (s : State) (m : Nat), s.fault = false → s.attached = true → FirstSync s m →
    ∃ t, exec .nextFrame s = .next t ∧ s.cursor.toNat + 4 ≤ t.cursor.toNat

/-- 44_facade.md R85: after a NO_MORE_DATA outcome fewer than 4 bytes are left; and then, whatever the host does but reset, ATTACH or a
fault, the next NEXT_FRAME under the same attachment again gives NO_MORE_DATA and does not move CURSOR. -/
def Obligations.EndOfStreamIsStable : Prop :=
  (∀ s t : State, s.fault = false → s.attached = true → exec .nextFrame s = .next t → t.result = 2 → AtEnd t) ∧
  (∀ s t : State, AtEnd s → step s = .next t → ¬ AssertsReset s → ¬ Issues s .attach → AtEnd t ∧ t.cursor = s.cursor) ∧
  (∀ s : State, s.fault = false → AtEnd s →
    ∃ t, exec .nextFrame s = .next t ∧ t.result = 2 ∧ t.cursor = s.cursor ∧ AtEnd t)

/-- 43_synchronizer.md R80: the two CRC bytes of a protected header that is returned are skipped whatever they hold: any buffer memory
that agrees from CURSOR up to the end of the 4 header bytes gives the same outcome and the same CURSOR. -/
def Obligations.CrcBytesAreNotInspected : Prop :=
  ∀ (s t : State) (m : Memory), s.fault = false → s.attached = true → exec .nextFrame s = .next t → t.result = 1 →
    t.hdrRaw.getLsbD 16 = false →
    (∀ i, s.cursor.toNat ≤ i → i + 2 < t.cursor.toNat → memByte m i = memByte s.mem i) →
    exec .nextFrame { s with mem := m } = .next { t with mem := m }

/-- 20_memory.md R32: no command depends on a byte at or above BUF_LEN. -/
def Obligations.BytesBeyondTheBufferAreNotRead : Prop :=
  ∀ (i : Instr) (s t : State) (m : Memory), exec i s = .next t →
    (∀ k, k < s.bufLen.toNat → memByte m k = memByte s.mem k) →
    exec i { s with mem := m } = .next { t with mem := m }

/-! The view, the results, the memory. -/

/-- 10_state.md R22: while one buffer stays attached CURSOR never decreases: only a step that resets or runs ATTACH may set it lower. -/
def Obligations.CursorNeverDecreases : Prop :=
  ∀ s t : State, step s = .next t → ¬ AssertsReset s → ¬ Issues s .attach → s.cursor.toNat ≤ t.cursor.toNat

/-- 10_state.md R21, its first part: only ATTACH and reset write ATTACHED and BUF_LEN, only these and NEXT_FRAME write CURSOR. -/
def Obligations.OnlyAttachAndResetWriteTheView : Prop :=
  ∀ s t : State, step s = .next t → ¬ AssertsReset s → ¬ Issues s .attach →
    t.attached = s.attached ∧ t.bufLen = s.bufLen ∧ (¬ Issues s .nextFrame → t.cursor = s.cursor)

/-- 10_state.md R20, R23, R24, over all steps: what can change the header registers, BEXT_RESULT, and FAULT and FAULT_CAUSE, and what
it leaves there. -/
def Obligations.ResultsAndFaultChangeOnlyAsListed : Prop :=
  ∀ s t : State, step s = .next t →
    (t.hdrRaw ≠ s.hdrRaw ∨ t.hdrValid ≠ s.hdrValid →
      (AssertsReset s ∧ t.hdrRaw = 0 ∧ t.hdrValid = false) ∨
      (Issues s .attach ∧ t.fault = false ∧ t.hdrRaw = 0 ∧ t.hdrValid = false) ∨
      ((Issues s .nextFrame ∨ Issues s .decodeHeader) ∧ t.fault = false ∧
        ((t.result = 1 ∧ t.hdrValid = true ∧ headerCheck s.cfg t.hdrRaw = .accept) ∨
          ((t.result = 2 ∨ t.result = 3 ∨ t.result = 4) ∧ t.hdrRaw = 0 ∧ t.hdrValid = false)))) ∧
    (t.bextResult ≠ s.bextResult →
      (AssertsReset s ∧ t.bextResult = 0) ∨
      ((∃ w start stop, Issues s (.bitRange w start stop)) ∧ t.fault = false ∧ t.result = 5)) ∧
    (t.fault ≠ s.fault ∨ t.faultCause ≠ s.faultCause →
      (AssertsReset s ∧ t.fault = false ∧ t.faultCause = 0) ∨ (s.fault = false ∧ t.fault = true))

/-- 60_exceptions.md R87, 10_state.md R18: which results a command that does not fault writes: only NEXT_FRAME and DECODE_HEADER give
the two error kinds, only NEXT_FRAME gives NO_MORE_DATA. -/
def Obligations.ResultsBelongToTheirCommands : Prop :=
  ∀ (i : Instr) (s t : State), s.fault = false → exec i s = .next t → t.fault = false →
    (i = .attach → t.result = 6) ∧
    (i = .nextFrame → t.result = 1 ∨ t.result = 2 ∨ t.result = 3 ∨ t.result = 4) ∧
    (i = .decodeHeader → t.result = 1 ∨ t.result = 3 ∨ t.result = 4) ∧
    (∀ w start stop, i = .bitRange w start stop → t.result = 5)

/-- 10_state.md R26: RESULT, REASON, HDR_VALID, HDR_RAW and BEXT_RESULT are no inputs. Whatever they hold before, a command leaves
every other part of the state the same; if it does not fault, it gives the same RESULT and REASON, the same header if it is no
BIT_RANGE, and the same BEXT_RESULT if it is one. A result register that it does not write keeps what it held. -/
def Obligations.ResultRegistersAreNoInputs : Prop :=
  ∀ (i : Instr) (s t : State) (res why : BitVec 4) (valid : Bool) (raw : HdrWord) (bext : Word),
    s.fault = false → exec i s = .next t →
    ∃ t', exec i { s with result := res, reason := why, hdrValid := valid, hdrRaw := raw, bextResult := bext } = .next t' ∧
      { t' with result := t.result, reason := t.reason, hdrValid := t.hdrValid, hdrRaw := t.hdrRaw, bextResult := t.bextResult } = t ∧
      (t.fault = false → t'.result = t.result ∧ t'.reason = t.reason ∧
        ((∀ w start stop, i ≠ .bitRange w start stop) →
          t'.hdrValid = t.hdrValid ∧ t'.hdrRaw = t.hdrRaw ∧ t'.bextResult = bext) ∧
        (∀ w start stop, i = .bitRange w start stop →
          t'.bextResult = t.bextResult ∧ t'.hdrValid = valid ∧ t'.hdrRaw = raw)) ∧
      (t.fault = true → t'.result = res ∧ t'.reason = why ∧ t'.hdrValid = valid ∧ t'.hdrRaw = raw ∧ t'.bextResult = bext)

/-- The frame of the four commands (44_facade.md R81, R82, 42_header_model.md R69, 41_bit_range.md R65, "State written"; 00_scope.md R10:
the block never writes the buffer): no command changes ARG0, ARG1 (10_state.md R15), the parameters or any byte of the buffer memory;
only ATTACH changes ATTACHED and BUF_LEN; only ATTACH and NEXT_FRAME change CURSOR; only BIT_RANGE changes BEXT_RESULT, and BIT_RANGE
does not change the header result (10_state.md R20, R23). The model's own host list, read value and draws are framed too. -/
def Obligations.CommandsLeaveTheRestUnchanged : Prop :=
  ∀ (i : Instr) (s t : State), exec i s = .next t →
    t.arg0 = s.arg0 ∧ t.arg1 = s.arg1 ∧ t.cfg = s.cfg ∧ t.mem = s.mem ∧ (∀ a, memByte t.mem a = memByte s.mem a) ∧
    t.host = s.host ∧ t.readData = s.readData ∧
    (i ≠ .attach → t.attached = s.attached ∧ t.bufLen = s.bufLen ∧ t.unstable = s.unstable) ∧
    (i ≠ .nextFrame → t.draws = s.draws) ∧
    (i ≠ .attach → i ≠ .nextFrame → t.cursor = s.cursor) ∧
    ((∀ w start stop, i ≠ .bitRange w start stop) → t.bextResult = s.bextResult) ∧
    (∀ w start stop, i = .bitRange w start stop → t.hdrRaw = s.hdrRaw ∧ t.hdrValid = s.hdrValid)

/-- 20_memory.md R30, R41 (b): a host store inside the 2^ADDR_W bytes puts the byte at its index and leaves every other byte; no
register of the block changes. R41 (b) speaks of writes that complete before the ATTACH; that a byte stored while attached, and
whatever FAULT is, lands in the buffer memory too is the model's deduction (log entry 15, DEDUCED). -/
def Obligations.HostStoreWritesOneByte : Prop :=
  ∀ (s : State) (i : Nat) (b : Byte) (rest : List HostAccess), s.host = .store i b :: rest → i < 2 ^ s.cfg.addrW →
    ∃ t, step s = .next t ∧ memByte t.mem i = b ∧ (∀ j, j ≠ i → memByte t.mem j = memByte s.mem j) ∧
      (∀ r, readReg t r = readReg s r) ∧ t.cfg = s.cfg ∧ t.host = rest

/-- 20_memory.md R37: after the host writes an attached byte every MemRead of it is a fresh draw, until the next ATTACH or reset; reads
of other bytes are as before. A draw is `Config.freeByte`, of which nothing is known (log entry 6). That only
an ATTACH that succeeds ends the draws (log entry 17), and that the byte stored while attached is then read as stored (log entry 15), are
the model's deductions. -/
def Obligations.AttachedStoreMakesReadsDraws : Prop :=
  (∀ (s : State) (i : Nat) (b : Byte) (rest : List HostAccess), s.host = .store i b :: rest → i < 2 ^ s.cfg.addrW →
    s.attached = true → i < s.bufLen.toNat →
    ∃ t, step s = .next t ∧ (∀ d, memRead t d i = (Config.freeByte d, d + 1)) ∧
      ∀ d j, j ≠ i → memRead t d j = memRead s d j) ∧
  (∀ (s t : State) (i : Nat), i ∈ s.unstable → step s = .next t → ¬ AssertsReset s →
    ¬ (Issues s .attach ∧ t.fault = false) → ∀ d, memRead t d i = (Config.freeByte d, d + 1)) ∧
  (∀ s t : State, step s = .next t → AssertsReset s ∨ (Issues s .attach ∧ t.fault = false) →
    ∀ d i, memRead t d i = (memByte t.mem i, d))

/-- 30_encoding.md R60: `skip N` with CURSOR + N ≤ BUF_LEN moves CURSOR on by N in the same buffer; with CURSOR + N beyond BUF_LEN the
ATTACH faults ATTACH_RANGE (cause 3). The five accesses of its expansion are five steps. -/
def Obligations.SkipMovesTheCursor : Prop :=
  ∀ (s : State) (n : Nat) (l : List HostAccess), Inv s → s.fault = false → expandLine s (.skip n) = some l →
    ∃ t, Host.Core.run Sys2Proof.core 5 { s with host := l } = .next t ∧ t.host = [] ∧
      (s.cursor.toNat + n ≤ s.bufLen.toNat →
        t.fault = false ∧ t.attached = true ∧ t.bufLen = s.bufLen ∧ t.cursor.toNat = s.cursor.toNat + n ∧ t.result = 6) ∧
      (s.bufLen.toNat < s.cursor.toNat + n → t.fault = true ∧ t.faultCause = 3 ∧ t.bufLen = s.bufLen ∧ t.cursor = s.cursor)

/-! The invariant. -/

/-- The invariant holds after reset, with the default parameters of 00_scope.md R6. -/
def Obligations.InvariantHoldsAtReset : Prop := Inv State.reset

/-- Every step from a state that meets the invariant, with any host access, leaves a state that meets it: CURSOR ≤ BUF_LEN < 2^ADDR_W
(10_state.md R21), no partially valid header (R20), only the listed STATUS codes and their pairing (R17, R18, R19,
60_exceptions.md R90), the canonical memory. -/
def Obligations.EveryStepKeepsTheInvariant : Prop :=
  ∀ s t : State, Inv s → step s = .next t → Inv t
end

