-- ==== Sys2Proof/Laws/State.lean ====
section
/-!
SUPPORT. One lemma per field of State and per named update: what the update leaves in the field.
-/
namespace Sys2Proof.Machine

/-! finish -/

@[simp] theorem finish_cfg (res : Result) (why : Reason) (s : State) : (finish res why s).cfg = s.cfg := rfl
@[simp] theorem finish_attached (res : Result) (why : Reason) (s : State) : (finish res why s).attached = s.attached := rfl
@[simp] theorem finish_bufLen (res : Result) (why : Reason) (s : State) : (finish res why s).bufLen = s.bufLen := rfl
@[simp] theorem finish_cursor (res : Result) (why : Reason) (s : State) : (finish res why s).cursor = s.cursor := rfl
@[simp] theorem finish_arg0 (res : Result) (why : Reason) (s : State) : (finish res why s).arg0 = s.arg0 := rfl
@[simp] theorem finish_arg1 (res : Result) (why : Reason) (s : State) : (finish res why s).arg1 = s.arg1 := rfl
@[simp] theorem finish_hdrValid (res : Result) (why : Reason) (s : State) : (finish res why s).hdrValid = s.hdrValid := rfl
@[simp] theorem finish_hdrRaw (res : Result) (why : Reason) (s : State) : (finish res why s).hdrRaw = s.hdrRaw := rfl
@[simp] theorem finish_result (res : Result) (why : Reason) (s : State) : (finish res why s).result = resultCode res := rfl
@[simp] theorem finish_reason (res : Result) (why : Reason) (s : State) : (finish res why s).reason = reasonCode why := rfl
@[simp] theorem finish_bextResult (res : Result) (why : Reason) (s : State) : (finish res why s).bextResult = s.bextResult := rfl
@[simp] theorem finish_fault (res : Result) (why : Reason) (s : State) : (finish res why s).fault = s.fault := rfl
@[simp] theorem finish_faultCause (res : Result) (why : Reason) (s : State) : (finish res why s).faultCause = s.faultCause := rfl
@[simp] theorem finish_mem (res : Result) (why : Reason) (s : State) : (finish res why s).mem = s.mem := rfl
@[simp] theorem finish_unstable (res : Result) (why : Reason) (s : State) : (finish res why s).unstable = s.unstable := rfl
@[simp] theorem finish_draws (res : Result) (why : Reason) (s : State) : (finish res why s).draws = s.draws := rfl
@[simp] theorem finish_host (res : Result) (why : Reason) (s : State) : (finish res why s).host = s.host := rfl
@[simp] theorem finish_readData (res : Result) (why : Reason) (s : State) : (finish res why s).readData = s.readData := rfl

/-! setHeader -/

@[simp] theorem setHeader_cfg (raw : HdrWord) (s : State) : (setHeader raw s).cfg = s.cfg := rfl
@[simp] theorem setHeader_attached (raw : HdrWord) (s : State) : (setHeader raw s).attached = s.attached := rfl
@[simp] theorem setHeader_bufLen (raw : HdrWord) (s : State) : (setHeader raw s).bufLen = s.bufLen := rfl
@[simp] theorem setHeader_cursor (raw : HdrWord) (s : State) : (setHeader raw s).cursor = s.cursor := rfl
@[simp] theorem setHeader_arg0 (raw : HdrWord) (s : State) : (setHeader raw s).arg0 = s.arg0 := rfl
@[simp] theorem setHeader_arg1 (raw : HdrWord) (s : State) : (setHeader raw s).arg1 = s.arg1 := rfl
@[simp] theorem setHeader_hdrValid (raw : HdrWord) (s : State) : (setHeader raw s).hdrValid = true := rfl
@[simp] theorem setHeader_hdrRaw (raw : HdrWord) (s : State) : (setHeader raw s).hdrRaw = raw := rfl
@[simp] theorem setHeader_result (raw : HdrWord) (s : State) : (setHeader raw s).result = s.result := rfl
@[simp] theorem setHeader_reason (raw : HdrWord) (s : State) : (setHeader raw s).reason = s.reason := rfl
@[simp] theorem setHeader_bextResult (raw : HdrWord) (s : State) : (setHeader raw s).bextResult = s.bextResult := rfl
@[simp] theorem setHeader_fault (raw : HdrWord) (s : State) : (setHeader raw s).fault = s.fault := rfl
@[simp] theorem setHeader_faultCause (raw : HdrWord) (s : State) : (setHeader raw s).faultCause = s.faultCause := rfl
@[simp] theorem setHeader_mem (raw : HdrWord) (s : State) : (setHeader raw s).mem = s.mem := rfl
@[simp] theorem setHeader_unstable (raw : HdrWord) (s : State) : (setHeader raw s).unstable = s.unstable := rfl
@[simp] theorem setHeader_draws (raw : HdrWord) (s : State) : (setHeader raw s).draws = s.draws := rfl
@[simp] theorem setHeader_host (raw : HdrWord) (s : State) : (setHeader raw s).host = s.host := rfl
@[simp] theorem setHeader_readData (raw : HdrWord) (s : State) : (setHeader raw s).readData = s.readData := rfl

/-! clearHeader -/

@[simp] theorem clearHeader_cfg (s : State) : (clearHeader s).cfg = s.cfg := rfl
@[simp] theorem clearHeader_attached (s : State) : (clearHeader s).attached = s.attached := rfl
@[simp] theorem clearHeader_bufLen (s : State) : (clearHeader s).bufLen = s.bufLen := rfl
@[simp] theorem clearHeader_cursor (s : State) : (clearHeader s).cursor = s.cursor := rfl
@[simp] theorem clearHeader_arg0 (s : State) : (clearHeader s).arg0 = s.arg0 := rfl
@[simp] theorem clearHeader_arg1 (s : State) : (clearHeader s).arg1 = s.arg1 := rfl
@[simp] theorem clearHeader_hdrValid (s : State) : (clearHeader s).hdrValid = false := rfl
@[simp] theorem clearHeader_hdrRaw (s : State) : (clearHeader s).hdrRaw = 0 := rfl
@[simp] theorem clearHeader_result (s : State) : (clearHeader s).result = s.result := rfl
@[simp] theorem clearHeader_reason (s : State) : (clearHeader s).reason = s.reason := rfl
@[simp] theorem clearHeader_bextResult (s : State) : (clearHeader s).bextResult = s.bextResult := rfl
@[simp] theorem clearHeader_fault (s : State) : (clearHeader s).fault = s.fault := rfl
@[simp] theorem clearHeader_faultCause (s : State) : (clearHeader s).faultCause = s.faultCause := rfl
@[simp] theorem clearHeader_mem (s : State) : (clearHeader s).mem = s.mem := rfl
@[simp] theorem clearHeader_unstable (s : State) : (clearHeader s).unstable = s.unstable := rfl
@[simp] theorem clearHeader_draws (s : State) : (clearHeader s).draws = s.draws := rfl
@[simp] theorem clearHeader_host (s : State) : (clearHeader s).host = s.host := rfl
@[simp] theorem clearHeader_readData (s : State) : (clearHeader s).readData = s.readData := rfl

/-! moveCursor -/

@[simp] theorem moveCursor_cfg (c d : Nat) (s : State) : (moveCursor c d s).cfg = s.cfg := rfl
@[simp] theorem moveCursor_attached (c d : Nat) (s : State) : (moveCursor c d s).attached = s.attached := rfl
@[simp] theorem moveCursor_bufLen (c d : Nat) (s : State) : (moveCursor c d s).bufLen = s.bufLen := rfl
@[simp] theorem moveCursor_cursor (c d : Nat) (s : State) : (moveCursor c d s).cursor = BitVec.ofNat 64 c := rfl
@[simp] theorem moveCursor_arg0 (c d : Nat) (s : State) : (moveCursor c d s).arg0 = s.arg0 := rfl
@[simp] theorem moveCursor_arg1 (c d : Nat) (s : State) : (moveCursor c d s).arg1 = s.arg1 := rfl
@[simp] theorem moveCursor_hdrValid (c d : Nat) (s : State) : (moveCursor c d s).hdrValid = s.hdrValid := rfl
@[simp] theorem moveCursor_hdrRaw (c d : Nat) (s : State) : (moveCursor c d s).hdrRaw = s.hdrRaw := rfl
@[simp] theorem moveCursor_result (c d : Nat) (s : State) : (moveCursor c d s).result = s.result := rfl
@[simp] theorem moveCursor_reason (c d : Nat) (s : State) : (moveCursor c d s).reason = s.reason := rfl
@[simp] theorem moveCursor_bextResult (c d : Nat) (s : State) : (moveCursor c d s).bextResult = s.bextResult := rfl
@[simp] theorem moveCursor_fault (c d : Nat) (s : State) : (moveCursor c d s).fault = s.fault := rfl
@[simp] theorem moveCursor_faultCause (c d : Nat) (s : State) : (moveCursor c d s).faultCause = s.faultCause := rfl
@[simp] theorem moveCursor_mem (c d : Nat) (s : State) : (moveCursor c d s).mem = s.mem := rfl
@[simp] theorem moveCursor_unstable (c d : Nat) (s : State) : (moveCursor c d s).unstable = s.unstable := rfl
@[simp] theorem moveCursor_draws (c d : Nat) (s : State) : (moveCursor c d s).draws = d := rfl
@[simp] theorem moveCursor_host (c d : Nat) (s : State) : (moveCursor c d s).host = s.host := rfl
@[simp] theorem moveCursor_readData (c d : Nat) (s : State) : (moveCursor c d s).readData = s.readData := rfl

/-! attachView -/

@[simp] theorem attachView_cfg (len start : Word) (s : State) : (attachView len start s).cfg = s.cfg := rfl
@[simp] theorem attachView_attached (len start : Word) (s : State) : (attachView len start s).attached = true := rfl
@[simp] theorem attachView_bufLen (len start : Word) (s : State) : (attachView len start s).bufLen = len := rfl
@[simp] theorem attachView_cursor (len start : Word) (s : State) : (attachView len start s).cursor = start := rfl
@[simp] theorem attachView_arg0 (len start : Word) (s : State) : (attachView len start s).arg0 = s.arg0 := rfl
@[simp] theorem attachView_arg1 (len start : Word) (s : State) : (attachView len start s).arg1 = s.arg1 := rfl
@[simp] theorem attachView_hdrValid (len start : Word) (s : State) : (attachView len start s).hdrValid = s.hdrValid := rfl
@[simp] theorem attachView_hdrRaw (len start : Word) (s : State) : (attachView len start s).hdrRaw = s.hdrRaw := rfl
@[simp] theorem attachView_result (len start : Word) (s : State) : (attachView len start s).result = s.result := rfl
@[simp] theorem attachView_reason (len start : Word) (s : State) : (attachView len start s).reason = s.reason := rfl
@[simp] theorem attachView_bextResult (len start : Word) (s : State) : (attachView len start s).bextResult = s.bextResult := rfl
@[simp] theorem attachView_fault (len start : Word) (s : State) : (attachView len start s).fault = s.fault := rfl
@[simp] theorem attachView_faultCause (len start : Word) (s : State) : (attachView len start s).faultCause = s.faultCause := rfl
@[simp] theorem attachView_mem (len start : Word) (s : State) : (attachView len start s).mem = s.mem := rfl
@[simp] theorem attachView_unstable (len start : Word) (s : State) : (attachView len start s).unstable = [] := rfl
@[simp] theorem attachView_draws (len start : Word) (s : State) : (attachView len start s).draws = s.draws := rfl
@[simp] theorem attachView_host (len start : Word) (s : State) : (attachView len start s).host = s.host := rfl
@[simp] theorem attachView_readData (len start : Word) (s : State) : (attachView len start s).readData = s.readData := rfl

/-! raiseFault -/

@[simp] theorem raiseFault_cfg (cause : FaultCause) (s : State) : (raiseFault cause s).cfg = s.cfg := rfl
@[simp] theorem raiseFault_attached (cause : FaultCause) (s : State) : (raiseFault cause s).attached = s.attached := rfl
@[simp] theorem raiseFault_bufLen (cause : FaultCause) (s : State) : (raiseFault cause s).bufLen = s.bufLen := rfl
@[simp] theorem raiseFault_cursor (cause : FaultCause) (s : State) : (raiseFault cause s).cursor = s.cursor := rfl
@[simp] theorem raiseFault_arg0 (cause : FaultCause) (s : State) : (raiseFault cause s).arg0 = s.arg0 := rfl
@[simp] theorem raiseFault_arg1 (cause : FaultCause) (s : State) : (raiseFault cause s).arg1 = s.arg1 := rfl
@[simp] theorem raiseFault_hdrValid (cause : FaultCause) (s : State) : (raiseFault cause s).hdrValid = s.hdrValid := rfl
@[simp] theorem raiseFault_hdrRaw (cause : FaultCause) (s : State) : (raiseFault cause s).hdrRaw = s.hdrRaw := rfl
@[simp] theorem raiseFault_result (cause : FaultCause) (s : State) : (raiseFault cause s).result = s.result := rfl
@[simp] theorem raiseFault_reason (cause : FaultCause) (s : State) : (raiseFault cause s).reason = s.reason := rfl
@[simp] theorem raiseFault_bextResult (cause : FaultCause) (s : State) : (raiseFault cause s).bextResult = s.bextResult := rfl
@[simp] theorem raiseFault_fault (cause : FaultCause) (s : State) : (raiseFault cause s).fault = true := rfl
@[simp] theorem raiseFault_faultCause (cause : FaultCause) (s : State) : (raiseFault cause s).faultCause = causeCode cause := rfl
@[simp] theorem raiseFault_mem (cause : FaultCause) (s : State) : (raiseFault cause s).mem = s.mem := rfl
@[simp] theorem raiseFault_unstable (cause : FaultCause) (s : State) : (raiseFault cause s).unstable = s.unstable := rfl
@[simp] theorem raiseFault_draws (cause : FaultCause) (s : State) : (raiseFault cause s).draws = s.draws := rfl
@[simp] theorem raiseFault_host (cause : FaultCause) (s : State) : (raiseFault cause s).host = s.host := rfl
@[simp] theorem raiseFault_readData (cause : FaultCause) (s : State) : (raiseFault cause s).readData = s.readData := rfl

/-! popAccess -/

@[simp] theorem popAccess_cfg (rest : List HostAccess) (s : State) : (popAccess rest s).cfg = s.cfg := rfl
@[simp] theorem popAccess_attached (rest : List HostAccess) (s : State) : (popAccess rest s).attached = s.attached := rfl
@[simp] theorem popAccess_bufLen (rest : List HostAccess) (s : State) : (popAccess rest s).bufLen = s.bufLen := rfl
@[simp] theorem popAccess_cursor (rest : List HostAccess) (s : State) : (popAccess rest s).cursor = s.cursor := rfl
@[simp] theorem popAccess_arg0 (rest : List HostAccess) (s : State) : (popAccess rest s).arg0 = s.arg0 := rfl
@[simp] theorem popAccess_arg1 (rest : List HostAccess) (s : State) : (popAccess rest s).arg1 = s.arg1 := rfl
@[simp] theorem popAccess_hdrValid (rest : List HostAccess) (s : State) : (popAccess rest s).hdrValid = s.hdrValid := rfl
@[simp] theorem popAccess_hdrRaw (rest : List HostAccess) (s : State) : (popAccess rest s).hdrRaw = s.hdrRaw := rfl
@[simp] theorem popAccess_result (rest : List HostAccess) (s : State) : (popAccess rest s).result = s.result := rfl
@[simp] theorem popAccess_reason (rest : List HostAccess) (s : State) : (popAccess rest s).reason = s.reason := rfl
@[simp] theorem popAccess_bextResult (rest : List HostAccess) (s : State) : (popAccess rest s).bextResult = s.bextResult := rfl
@[simp] theorem popAccess_fault (rest : List HostAccess) (s : State) : (popAccess rest s).fault = s.fault := rfl
@[simp] theorem popAccess_faultCause (rest : List HostAccess) (s : State) : (popAccess rest s).faultCause = s.faultCause := rfl
@[simp] theorem popAccess_mem (rest : List HostAccess) (s : State) : (popAccess rest s).mem = s.mem := rfl
@[simp] theorem popAccess_unstable (rest : List HostAccess) (s : State) : (popAccess rest s).unstable = s.unstable := rfl
@[simp] theorem popAccess_draws (rest : List HostAccess) (s : State) : (popAccess rest s).draws = s.draws := rfl
@[simp] theorem popAccess_host (rest : List HostAccess) (s : State) : (popAccess rest s).host = rest := rfl
@[simp] theorem popAccess_readData (rest : List HostAccess) (s : State) : (popAccess rest s).readData = s.readData := rfl

/-! resetBlock -/

@[simp] theorem resetBlock_cfg (s : State) : (resetBlock s).cfg = s.cfg := rfl
@[simp] theorem resetBlock_attached (s : State) : (resetBlock s).attached = false := rfl
@[simp] theorem resetBlock_bufLen (s : State) : (resetBlock s).bufLen = 0 := rfl
@[simp] theorem resetBlock_cursor (s : State) : (resetBlock s).cursor = 0 := rfl
@[simp] theorem resetBlock_arg0 (s : State) : (resetBlock s).arg0 = 0 := rfl
@[simp] theorem resetBlock_arg1 (s : State) : (resetBlock s).arg1 = 0 := rfl
@[simp] theorem resetBlock_hdrValid (s : State) : (resetBlock s).hdrValid = false := rfl
@[simp] theorem resetBlock_hdrRaw (s : State) : (resetBlock s).hdrRaw = 0 := rfl
@[simp] theorem resetBlock_result (s : State) : (resetBlock s).result = 0 := rfl
@[simp] theorem resetBlock_reason (s : State) : (resetBlock s).reason = 0 := rfl
@[simp] theorem resetBlock_bextResult (s : State) : (resetBlock s).bextResult = 0 := rfl
@[simp] theorem resetBlock_fault (s : State) : (resetBlock s).fault = false := rfl
@[simp] theorem resetBlock_faultCause (s : State) : (resetBlock s).faultCause = 0 := rfl
@[simp] theorem resetBlock_mem (s : State) : (resetBlock s).mem = s.mem := rfl
@[simp] theorem resetBlock_unstable (s : State) : (resetBlock s).unstable = [] := rfl
@[simp] theorem resetBlock_draws (s : State) : (resetBlock s).draws = s.draws := rfl
@[simp] theorem resetBlock_host (s : State) : (resetBlock s).host = s.host := rfl
@[simp] theorem resetBlock_readData (s : State) : (resetBlock s).readData = s.readData := rfl

end Sys2Proof.Machine
end

