-- ==== Sys2Proof/Laws/Bits.lean ====
section
/-!
SUPPORT. The extraction law and the header fields: bit by bit, its bound, and its form as a slice of a bit vector.
-/
namespace Sys2Proof.Machine

/-- Bit k of an extraction (41_bit_range.md R63). -/
theorem bitRange_testBit (v lo hi k : Nat) : (bitRange v lo hi).testBit k = (decide (k < hi - lo) && v.testBit (lo + k)) := by
  simp [bitRange, Nat.and_two_pow_sub_one_eq_mod, Nat.testBit_mod_two_pow, Nat.testBit_shiftRight]

/-- The result is below 2^(high - low) (R63). -/
theorem bitRange_lt (v lo hi : Nat) : bitRange v lo hi < 2 ^ (hi - lo) := by
  rw [bitRange, Nat.and_two_pow_sub_one_eq_mod]
  exact Nat.mod_lt _ (Nat.two_pow_pos _)

/-- An extraction of a bit vector is its slice. -/
theorem bitRange_toNat {n : Nat} (v : BitVec n) (lo len : Nat) : bitRange v.toNat lo (lo + len) = (v.extractLsb' lo len).toNat := by
  rw [bitRange, Nat.and_two_pow_sub_one_eq_mod, Nat.add_sub_cancel_left, BitVec.extractLsb'_toNat]

/-- A header field is the slice raw[hi:lo] (42_header_model.md R70). -/
theorem hdrField_eq (raw : HdrWord) (hi lo : Nat) (h : lo ≤ hi) :
    hdrField raw hi lo = (raw.extractLsb' lo (hi + 1 - lo)).toNat := by
  rw [hdrField, show hi + 1 = lo + (hi + 1 - lo) by omega, bitRange_toNat, show lo + (hi + 1 - lo) - lo = hi + 1 - lo by omega]

theorem hdrVersion_eq (raw : HdrWord) : hdrVersion raw = (raw.extractLsb' 19 2).toNat := hdrField_eq raw 20 19 (by decide)
theorem hdrLayer_eq (raw : HdrWord) : hdrLayer raw = (raw.extractLsb' 17 2).toNat := hdrField_eq raw 18 17 (by decide)
theorem hdrProtection_eq (raw : HdrWord) : hdrProtection raw = (raw.extractLsb' 16 1).toNat :=
  hdrField_eq raw 16 16 (by decide)
theorem hdrBitrateIndex_eq (raw : HdrWord) : hdrBitrateIndex raw = (raw.extractLsb' 12 4).toNat :=
  hdrField_eq raw 15 12 (by decide)
theorem hdrSrateIndex_eq (raw : HdrWord) : hdrSrateIndex raw = (raw.extractLsb' 10 2).toNat :=
  hdrField_eq raw 11 10 (by decide)
theorem hdrEmphasis_eq (raw : HdrWord) : hdrEmphasis raw = (raw.extractLsb' 0 2).toNat := hdrField_eq raw 1 0 (by decide)

/-- PROTECTION is one bit. -/
theorem hdrProtection_cases (raw : HdrWord) : hdrProtection raw = 0 ∨ hdrProtection raw = 1 := by
  have := (raw.extractLsb' 16 1).isLt
  rw [hdrProtection_eq]
  omega

/-- What ACCEPT says of the fields (42_header_model.md R66, R70): no reserved code is left. -/
theorem headerCheck_accept {cfg : Config} {raw : HdrWord} (h : headerCheck cfg raw = .accept) :
    (hdrVersion raw = 3 ∨ hdrVersion raw = 1 ∧ cfg.version01 = .accept) ∧ hdrLayer raw ≠ 0 ∧ hdrBitrateIndex raw ≠ 15 ∧
      hdrSrateIndex raw ≠ 3 ∧ hdrEmphasis raw ≠ 2 := by
  have hv : hdrVersion raw < 4 := bitRange_lt raw.toNat 19 21
  simp only [headerCheck] at h
  split at h <;> try contradiction
  split at h <;> try contradiction
  split at h <;> try contradiction
  split at h <;> try contradiction
  split at h <;> try contradiction
  split at h <;> try contradiction
  rename_i h1 h2 h3 h4 h5 h6
  refine ⟨?_, h3, h4, h5, h6⟩
  rcases hc : cfg.version01 <;> simp_all <;> omega

/-- The reasons a rejection carries, by its kind (10_state.md R19). -/
theorem headerCheck_reject {cfg : Config} {raw : HdrWord} {kind : Result} {why : Reason}
    (h : headerCheck cfg raw = .reject kind why) :
    (kind = .unsupportedFormat ∧ (why = .mpeg25 ∨ why = .mpeg2)) ∨
      (kind = .invalidHeader ∧
        (why = .layerReserved ∨ why = .bitrateInvalid ∨ why = .samplingReserved ∨ why = .emphasisReserved)) := by
  simp only [headerCheck] at h
  repeat' split at h
  all_goals first | contradiction | (obtain ⟨rfl, rfl⟩ := Verdict.reject.inj h; simp)

end Sys2Proof.Machine
end

