-- ==== Sys2Proof/Laws/Encoding.lean ====
section
/-!
SUPPORT. The fields of a BIT_RANGE command word, read back from the encoder's packing (30_encoding.md R53).
-/
namespace Sys2Proof

/-- Every field of the packed word, one slice each, in the order of R53. -/
theorem command_fields (spos epos : BitVec 8) (ekind skind wsel : BitVec 2) (op : BitVec 4) :
    let v : Word := 0#32 ++ epos ++ spos ++ 0#6 ++ ekind ++ skind ++ wsel ++ op
    v.extractLsb' 0 4 = op ∧ v.extractLsb' 4 2 = wsel ∧ v.extractLsb' 6 2 = skind ∧ v.extractLsb' 8 2 = ekind ∧
      v.extractLsb' 10 6 = 0#6 ∧ v.extractLsb' 16 8 = spos ∧ v.extractLsb' 24 8 = epos ∧ v.extractLsb' 32 32 = 0#32 := by
  refine ⟨?_, ?_, ?_, ?_, ?_, ?_, ?_, ?_⟩ <;>
    repeat first
      | rw [BitVec.extractLsb'_append_eq_of_le (by decide)]
      | rw [BitVec.extractLsb'_append_eq_of_add_le (by decide)]
      | exact BitVec.extractLsb'_eq_self

/-- The width field round trip. -/
theorem decodeWidth_sel (w : Width) : decodeWidth w.sel = w := by
  cases w <;> decide

/-- The bound fields round trip, for a position that fits its field. -/
theorem decodeBound_fields (b : Bound) (h : b.wf = true) : decodeBound b.kind b.posField = some b := by
  cases b with
  | unbounded => simp [decodeBound, Bound.kind]
  | included p =>
    simp only [Bound.wf, decide_eq_true_eq] at h
    simp [decodeBound, Bound.kind, Bound.posField, Nat.mod_eq_of_lt h]
  | excluded p =>
    simp only [Bound.wf, decide_eq_true_eq] at h
    simp [decodeBound, Bound.kind, Bound.posField, Nat.mod_eq_of_lt h]

/-- What a decoded bound's fields were. -/
theorem decodeBound_cases {kind : BitVec 2} {pos : BitVec 8} {b : Bound} (h : decodeBound kind pos = some b) :
    (kind = 0#2 ∧ b = .unbounded) ∨ (kind = 1#2 ∧ b = .included pos.toNat) ∨ (kind = 2#2 ∧ b = .excluded pos.toNat) := by
  simp only [decodeBound] at h
  split at h
  · exact .inl ⟨‹_›, (Option.some.inj h).symm⟩
  · split at h
    · exact .inr (.inl ⟨‹_›, (Option.some.inj h).symm⟩)
    · split at h
      · exact .inr (.inr ⟨‹_›, (Option.some.inj h).symm⟩)
      · contradiction

/-- A bound's fields decode to none only under the reserved kind (R57). -/
theorem decodeBound_none {kind : BitVec 2} {pos : BitVec 8} : decodeBound kind pos = none ↔ kind = 3#2 := by
  have : kind = 0#2 ∨ kind = 1#2 ∨ kind = 2#2 ∨ kind = 3#2 := by
    revert kind; decide
  rcases this with rfl | rfl | rfl | rfl <;> simp [decodeBound]

end Sys2Proof
end

