-- ==== Sys2Proof/Laws/Memory.lean ====
section
/-!
SUPPORT. The buffer memory: read after write, the canonical form, and what MemRead answers.
-/
namespace Sys2Proof.Machine

theorem memLookup_memStore_same (m : Memory) (i : Nat) (x : Byte) : memLookup (memStore m i x) i = some x := by
  induction m with
  | nil => simp [memStore, memLookup]
  | cons cell rest ih =>
    obtain ⟨a, b⟩ := cell
    simp only [memStore]
    split
    · simp [memLookup]
    · split
      · simp [memLookup]
      · rename_i _ h
        simp [memLookup, ih, Ne.symm h]

theorem memLookup_memStore_other (m : Memory) (i j : Nat) (x : Byte) (h : j ≠ i) :
    memLookup (memStore m i x) j = memLookup m j := by
  induction m with
  | nil => simp [memStore, memLookup, h.symm]
  | cons cell rest ih =>
    obtain ⟨a, b⟩ := cell
    simp only [memStore]
    split
    · simp [memLookup, h.symm]
    · split
      · rename_i _ hia
        subst hia
        simp [memLookup, h.symm]
      · simp only [memLookup, ih]

@[simp] theorem memByte_memStore_same (m : Memory) (i : Nat) (x : Byte) : memByte (memStore m i x) i = x := by
  simp [memByte, memLookup_memStore_same]

theorem memByte_memStore_other (m : Memory) (i j : Nat) (x : Byte) (h : j ≠ i) :
    memByte (memStore m i x) j = memByte m j := by
  simp [memByte, memLookup_memStore_other m i j x h]

/-- The cells of a store: the new one and old ones. -/
theorem mem_memStore {m : Memory} {i : Nat} {x : Byte} {cell : Host.Cell} (h : cell ∈ memStore m i x) :
    cell = (i, x) ∨ cell ∈ m := by
  induction m with
  | nil => simpa [memStore] using h
  | cons c rest ih =>
    obtain ⟨a, b⟩ := c
    simp only [memStore] at h
    split at h
    · simpa using h
    · split at h
      · rcases List.mem_cons.mp h with h | h
        · exact .inl h
        · exact .inr (List.mem_cons_of_mem _ h)
      · rcases List.mem_cons.mp h with h | h
        · exact .inr (h ▸ List.mem_cons_self)
        · exact (ih h).imp_right (List.mem_cons_of_mem _)

/-- A store keeps the canonical form. -/
theorem memStore_wf (m : Memory) (i : Nat) (x : Byte) (h : Memory.wf m) : Memory.wf (memStore m i x) := by
  induction m with
  | nil => simp [Memory.wf, memStore]
  | cons c rest ih =>
    obtain ⟨a, b⟩ := c
    simp only [Memory.wf, List.map_cons, List.pairwise_cons] at h
    obtain ⟨ha, hr⟩ := h
    simp only [memStore]
    split
    · rename_i hia
      simp only [Memory.wf, List.map_cons, List.pairwise_cons, List.mem_cons]
      exact ⟨fun y hy => hy.elim (fun e => e ▸ hia) (fun hy => hia.trans (ha y hy)), ha, hr⟩
    · split
      · rename_i _ hia
        subst hia
        simpa only [Memory.wf, List.map_cons, List.pairwise_cons] using ⟨ha, hr⟩
      · rename_i h1 h2
        simp only [Memory.wf, List.map_cons, List.pairwise_cons]
        refine ⟨fun y hy => ?_, ih hr⟩
        obtain ⟨cell, hc, rfl⟩ := List.mem_map.mp hy
        rcases mem_memStore hc with rfl | hc
        · simp only
          omega
        · exact ha _ (List.mem_map_of_mem hc)

theorem reset_mem_wf : Memory.wf State.reset.mem := by
  simp [State.reset, Memory.wf]

@[simp] theorem mem_insertIndex {l : List Nat} {i j : Nat} : j ∈ insertIndex l i ↔ j = i ∨ j ∈ l := by
  induction l with
  | nil => simp [insertIndex]
  | cons a rest ih =>
    simp only [insertIndex]
    split
    · simp
    · split
      · rename_i _ h
        subst h
        simp
      · simp only [List.mem_cons, ih]
        tauto

theorem insertIndex_rising {l : List Nat} (i : Nat) (h : l.Pairwise (· < ·)) : (insertIndex l i).Pairwise (· < ·) := by
  induction l with
  | nil => simp [insertIndex]
  | cons a rest ih =>
    obtain ⟨ha, hr⟩ := List.pairwise_cons.mp h
    simp only [insertIndex]
    split
    · rename_i hia
      refine List.pairwise_cons.mpr ⟨fun y hy => ?_, h⟩
      rcases List.mem_cons.mp hy with rfl | hy
      · exact hia
      · exact hia.trans (ha y hy)
    · split
      · exact h
      · refine List.pairwise_cons.mpr ⟨fun y hy => ?_, ih hr⟩
        rcases mem_insertIndex.mp hy with rfl | hy
        · omega
        · exact ha y hy

/-- MemRead of a byte the host has not written while attached: the byte it holds, and no draw (20_memory.md R33). -/
theorem memRead_stable {s : State} {d i : Nat} (h : i ∉ s.unstable) : memRead s d i = (memByte s.mem i, d) := by
  simp [memRead, h]

/-- MemRead of a byte the host has written while attached: the next draw (20_memory.md R37). -/
theorem memRead_unstable {s : State} {d i : Nat} (h : i ∈ s.unstable) : memRead s d i = (Config.freeByte d, d + 1) := by
  simp [memRead, h]

/-- MemRead depends on the buffer memory only through the byte read. -/
theorem memRead_congr {s t : State} {d i : Nat} (hu : t.unstable = s.unstable) (hm : memByte t.mem i = memByte s.mem i) :
    memRead t d i = memRead s d i := by
  simp [memRead, hu, hm]

end Sys2Proof.Machine
end

