-- ==== Sys2Proof/Laws/Synchronizer.lean ====
section
/-!
SUPPORT. What the scan and the CRC skip can answer (43_synchronizer.md R77, R78, R80), said once.
-/
namespace Sys2Proof.Machine

/-- The loop moves forward, by at most the bytes left (R78). -/
theorem scanLoop_cursor (s : State) (n : Nat) (cand : HdrWord) (c d : Nat) :
    c ≤ (scanLoop s n cand c d).cursor ∧ (scanLoop s n cand c d).cursor ≤ c + n := by
  induction n generalizing cand c d with
  | zero => simp [scanLoop]
  | succ n ih =>
    simp only [scanLoop]
    split
    · simp
    · have := ih (shiftIn cand (memRead s d c).1) (c + 1) (memRead s d c).2
      omega

/-- A loop without a match consumes every byte (R77). -/
theorem scanLoop_none {s : State} {n : Nat} {cand : HdrWord} {c d : Nat} (h : (scanLoop s n cand c d).found = none) :
    (scanLoop s n cand c d).cursor = c + n := by
  induction n generalizing cand c d with
  | zero => simp [scanLoop]
  | succ n ih =>
    simp only [scanLoop] at h ⊢
    split at h
    · contradiction
    · rename_i hs
      simp only [hs, Bool.false_eq_true, if_false]
      rw [ih h]
      omega

/-- What the loop finds has the syncword (R75, R77). -/
theorem scanLoop_some {s : State} {n : Nat} {cand w : HdrWord} {c d : Nat} (h : (scanLoop s n cand c d).found = some w) :
    syncWord w = true := by
  induction n generalizing cand c d with
  | zero =>
    simp only [scanLoop, Option.ite_none_right_eq_some, Option.some.injEq] at h
    exact h.2 ▸ h.1
  | succ n ih =>
    simp only [scanLoop] at h
    split at h
    · rename_i hs
      exact (Option.some.inj h) ▸ hs
    · exact ih h

/-- A scan without a match (R77): fewer than 4 bytes and CURSOR unchanged, or every byte consumed. -/
theorem syncScan_none {s : State} (h : (syncScan s).found = none) :
    (s.bufLen.toNat - s.cursor.toNat < 4 ∧ syncScan s = ⟨none, s.cursor.toNat, s.draws⟩) ∨
      (4 ≤ s.bufLen.toNat - s.cursor.toNat ∧ (syncScan s).cursor = s.bufLen.toNat) := by
  simp only [syncScan] at h ⊢
  split
  · exact .inl ⟨‹_›, rfl⟩
  · rename_i h4
    simp only [h4, if_false] at h
    refine .inr ⟨by omega, ?_⟩
    rw [scanLoop_none h]
    omega

/-- A scan with a match (R77): the candidate has the syncword, at least 4 bytes are consumed, and CURSOR stays in the buffer. -/
theorem syncScan_some {s : State} {w : HdrWord} (h : (syncScan s).found = some w) :
    syncWord w = true ∧ s.cursor.toNat + 4 ≤ (syncScan s).cursor ∧ (syncScan s).cursor ≤ s.bufLen.toNat := by
  simp only [syncScan] at h ⊢
  split
  · rename_i h4
    simp [h4] at h
  · rename_i h4
    simp only [h4, if_false] at h
    have := scanLoop_cursor s (s.bufLen.toNat - s.cursor.toNat - 4) (readHeader s s.draws s.cursor.toNat).1
      (s.cursor.toNat + 4) (readHeader s s.draws s.cursor.toNat).2
    exact ⟨scanLoop_some h, this.1, by omega⟩

/-- The loop depends on the buffer memory only through the bytes it consumes. -/
theorem scanLoop_congr {s t : State} (hu : t.unstable = s.unstable) (n : Nat) (cand : HdrWord) (c d : Nat)
    (hm : ∀ i, c ≤ i → i < (scanLoop s n cand c d).cursor → memByte t.mem i = memByte s.mem i) :
    scanLoop t n cand c d = scanLoop s n cand c d := by
  induction n generalizing cand c d with
  | zero => simp [scanLoop]
  | succ n ih =>
    simp only [scanLoop] at hm ⊢
    split
    · rfl
    · rename_i hs
      simp only [hs, Bool.false_eq_true, if_false] at hm
      have hc := (scanLoop_cursor s n (shiftIn cand (memRead s d c).1) (c + 1) (memRead s d c).2).1
      rw [memRead_congr hu (hm c (le_refl c) (by omega))]
      exact ih _ _ _ fun i hi hlt => hm i (by omega) hlt

/-- The scan depends on the buffer memory only through the bytes it consumes. -/
theorem syncScan_congr {s t : State} (hl : t.bufLen = s.bufLen) (hc : t.cursor = s.cursor) (hd : t.draws = s.draws)
    (hu : t.unstable = s.unstable)
    (hm : ∀ i, s.cursor.toNat ≤ i → i < (syncScan s).cursor → memByte t.mem i = memByte s.mem i) :
    syncScan t = syncScan s := by
  simp only [syncScan, hl, hc, hd] at hm ⊢
  split
  · rfl
  · rename_i h4
    simp only [h4, if_false] at hm
    have hle := (scanLoop_cursor s (s.bufLen.toNat - s.cursor.toNat - 4) (readHeader s s.draws s.cursor.toNat).1
      (s.cursor.toNat + 4) (readHeader s s.draws s.cursor.toNat).2).1
    have hr : readHeader t s.draws s.cursor.toNat = readHeader s s.draws s.cursor.toNat := by
      simp only [readHeader]
      rw [memRead_congr hu (hm _ (by omega) (by omega)), memRead_congr hu (hm _ (by omega) (by omega)),
        memRead_congr hu (hm _ (by omega) (by omega)), memRead_congr hu (hm _ (by omega) (by omega))]
    rw [hr]
    exact scanLoop_congr hu _ _ _ _ fun i hi hlt => hm i (by omega) hlt

/-- The CRC skip (R80): where it answers a place, that place is CURSOR, or CURSOR + 2 inside the buffer. -/
theorem crcSkip_some {s : State} {cand : HdrWord} {c c' : Nat} (h : crcSkip s cand c = some c') :
    (hdrProtection cand = 1 ∧ c' = c) ∨ (hdrProtection cand = 0 ∧ 2 ≤ s.bufLen.toNat - c ∧ c' = c + 2) := by
  have := hdrProtection_cases cand
  simp only [crcSkip] at h
  split at h
  · exact .inl ⟨‹_›, (Option.some.inj h).symm⟩
  · split at h
    · contradiction
    · exact .inr ⟨by omega, by omega, (Option.some.inj h).symm⟩

/-- The CRC skip answers NO_DATA only for a protected header with fewer than 2 bytes after it (R80). -/
theorem crcSkip_none {s : State} {cand : HdrWord} {c : Nat} (h : crcSkip s cand c = none) :
    hdrProtection cand = 0 ∧ s.bufLen.toNat - c < 2 := by
  have := hdrProtection_cases cand
  simp only [crcSkip] at h
  split at h
  · contradiction
  · split at h
    · exact ⟨by omega, ‹_›⟩
    · contradiction

end Sys2Proof.Machine
end

