-- ==== Sys2Proof/Laws/Exec.lean ====
section
/-!
SUPPORT. What each command and each step can do, said once: one inversion lemma per command, and one for the step.
-/
namespace Sys2Proof.Machine

/-- Everything ATTACH can do (44_facade.md R81). -/
theorem execAttach_cases {s t : State} (h : exec .attach s = .next t) :
    ((2 ^ s.cfg.addrW ≤ s.arg0.toNat ∨ s.arg0.toNat < s.arg1.toNat) ∧ t = raiseFault .attachRange s) ∨
      (s.arg0.toNat < 2 ^ s.cfg.addrW ∧ s.arg1.toNat ≤ s.arg0.toNat ∧
        t = finish .attachedOk .none (clearHeader (attachView s.arg0 s.arg1 s))) := by
  simp only [exec, execAttach] at h
  split at h
  · exact .inl ⟨.inl ‹_›, (Host.Outcome.next.inj h).symm⟩
  · split at h
    · exact .inl ⟨.inr ‹_›, (Host.Outcome.next.inj h).symm⟩
    · exact .inr ⟨by omega, by omega, (Host.Outcome.next.inj h).symm⟩

/-- Everything DECODE_HEADER can do (42_header_model.md R69). -/
theorem execDecodeHeader_cases {s t : State} (h : exec .decodeHeader s = .next t) :
    (2 ^ 32 ≤ s.arg0.toNat ∧ t = raiseFault .operandWidth s) ∨
      (s.arg0.toNat < 2 ^ 32 ∧ headerCheck s.cfg (s.arg0.extractLsb' 0 32) = .accept ∧
        t = finish .header .none (setHeader (s.arg0.extractLsb' 0 32) s)) ∨
      (s.arg0.toNat < 2 ^ 32 ∧ ∃ kind why, headerCheck s.cfg (s.arg0.extractLsb' 0 32) = .reject kind why ∧
        t = finish kind why (clearHeader s)) := by
  simp only [exec, execDecodeHeader] at h
  split at h
  · exact .inl ⟨‹_›, (Host.Outcome.next.inj h).symm⟩
  · refine .inr ?_
    split at h
    · exact .inl ⟨by omega, ‹_›, (Host.Outcome.next.inj h).symm⟩
    · exact .inr ⟨by omega, _, _, ‹_›, (Host.Outcome.next.inj h).symm⟩

/-- Everything BIT_RANGE can do (41_bit_range.md R65). -/
theorem execBitRange_cases {w : Width} {start stop : Bound} {s t : State} (h : exec (.bitRange w start stop) s = .next t) :
    ((2 ^ widthBits w ≤ s.arg0.toNat ∨ spanHigh (widthBits w) stop < spanLow start ∨ widthBits w < spanHigh (widthBits w) stop) ∧
        ∃ cause, t = raiseFault cause s) ∨
      (s.arg0.toNat < 2 ^ widthBits w ∧ spanLow start ≤ spanHigh (widthBits w) stop ∧
        spanHigh (widthBits w) stop ≤ widthBits w ∧
        t = finish .bextDone .none
          { s with bextResult := BitVec.ofNat 64 (bitRange s.arg0.toNat (spanLow start) (spanHigh (widthBits w) stop)) }) := by
  simp only [exec, execBitRange] at h
  split at h
  · exact .inl ⟨.inl ‹_›, _, (Host.Outcome.next.inj h).symm⟩
  · split at h
    · exact .inl ⟨.inr (.inl ‹_›), _, (Host.Outcome.next.inj h).symm⟩
    · split at h
      · exact .inl ⟨.inr (.inr ‹_›), _, (Host.Outcome.next.inj h).symm⟩
      · exact .inr ⟨by omega, by omega, by omega, (Host.Outcome.next.inj h).symm⟩

/-- Everything NEXT_FRAME can do (44_facade.md R82). -/
theorem execNextFrame_cases {s t : State} (h : exec .nextFrame s = .next t) :
    (s.attached = false ∧ t = raiseFault .notAttached s) ∨
      (s.attached = true ∧ (syncScan s).found = none ∧
        t = finish .noMoreData .none (clearHeader (moveCursor (syncScan s).cursor (syncScan s).draws s))) ∨
      (s.attached = true ∧ ∃ cand, (syncScan s).found = some cand ∧
        ((∃ kind why, headerCheck s.cfg cand = .reject kind why ∧
            t = finish kind why (clearHeader (moveCursor (syncScan s).cursor (syncScan s).draws s))) ∨
          (headerCheck s.cfg cand = .accept ∧ crcSkip s cand (syncScan s).cursor = none ∧
            t = finish .noMoreData .none (clearHeader (moveCursor (syncScan s).cursor (syncScan s).draws s))) ∨
          (headerCheck s.cfg cand = .accept ∧ ∃ c', crcSkip s cand (syncScan s).cursor = some c' ∧
            t = finish .header .none (setHeader cand (moveCursor c' (syncScan s).draws s))))) := by
  simp only [exec, execNextFrame] at h
  split at h
  · exact .inl ⟨‹_›, (Host.Outcome.next.inj h).symm⟩
  · have ha : s.attached = true := by simpa using ‹¬s.attached = false›
    refine .inr ?_
    split at h
    · exact .inl ⟨ha, ‹_›, (Host.Outcome.next.inj h).symm⟩
    · rename_i cand hf
      refine .inr ⟨ha, cand, hf, ?_⟩
      have h := Host.Outcome.next.inj h
      simp only [acceptCandidate] at h
      split at h
      · exact .inl ⟨_, _, ‹_›, h.symm⟩
      · split at h
        · exact .inr (.inl ⟨‹_›, ‹_›, h.symm⟩)
        · exact .inr (.inr ⟨‹_›, _, ‹_›, h.symm⟩)

/-- Everything a CMD write can do (30_encoding.md R55). -/
theorem issue_cases {v : Word} {s t : State} (h : issue v s = .next t) :
    (s.fault = true ∧ t = s) ∨
      (s.fault = false ∧ (∃ e, decode v = .error e) ∧ t = raiseFault .illegalCommand s) ∨
      (s.fault = false ∧ ∃ i, decode v = .ok i ∧ exec i s = .next t) := by
  simp only [issue] at h
  split at h
  · exact .inl ⟨‹_›, (Host.Outcome.next.inj h).symm⟩
  · have hf : s.fault = false := by simpa using ‹¬s.fault = true›
    refine .inr ?_
    split at h
    · exact .inl ⟨hf, ⟨_, ‹_›⟩, (Host.Outcome.next.inj h).symm⟩
    · exact .inr ⟨hf, _, ‹_›, h⟩

/-- Only number 0x00 is CMD (10_state.md R16). -/
theorem regOfNumber_number {n : Nat} {r : Reg} (h : regOfNumber n = some r) : regNumber r = n := by
  simpa using List.find?_some h

/-- Everything a register write can do (20_memory.md R31). -/
theorem portWrite_cases {n : Nat} {v : Word} {s t : State} (h : portWrite n v s = .next t) :
    (n = 0x00 ∧ issue v s = .next t) ∨ (n = 0x01 ∧ t = { s with arg0 := v }) ∨ (n = 0x02 ∧ t = { s with arg1 := v }) ∨
      (3 ≤ n ∧ t = s) := by
  simp only [portWrite] at h
  split at h
  · contradiction
  · rename_i hr
    exact .inl ⟨(regOfNumber_number hr).symm, h⟩
  · rename_i hr
    exact .inr (.inl ⟨(regOfNumber_number hr).symm, (Host.Outcome.next.inj h).symm⟩)
  · rename_i hr
    exact .inr (.inr (.inl ⟨(regOfNumber_number hr).symm, (Host.Outcome.next.inj h).symm⟩))
  · rename_i r hc h0 h1 hr
    refine .inr (.inr (.inr ⟨?_, (Host.Outcome.next.inj h).symm⟩))
    have := regOfNumber_number hr
    cases r <;> simp_all [regNumber] <;> omega

/-- Everything a step can do (10_state.md R13, 70_reset_and_hazards.md R101): the host's next access, or nothing. -/
theorem step_cases {s t : State} (h : step s = .next t) :
    (s.host = [] ∧ t = s) ∨
      (∃ v rest, s.host = .write 0x00 v :: rest ∧ issue v (popAccess rest s) = .next t) ∨
      (∃ v rest, s.host = .write 0x01 v :: rest ∧ t = { popAccess rest s with arg0 := v }) ∨
      (∃ v rest, s.host = .write 0x02 v :: rest ∧ t = { popAccess rest s with arg1 := v }) ∨
      (∃ n v rest, s.host = .write n v :: rest ∧ 3 ≤ n ∧ t = popAccess rest s) ∨
      (∃ r rest, s.host = .read (regNumber r) :: rest ∧
        t = { popAccess rest s with readData := readReg (popAccess rest s) r }) ∨
      (∃ i b rest, s.host = .store i b :: rest ∧ i < 2 ^ s.cfg.addrW ∧
        t = { popAccess rest s with
              mem := memStore s.mem i b
              unstable := if s.attached ∧ i < s.bufLen.toNat then insertIndex s.unstable i else s.unstable }) ∨
      (∃ rest, s.host = .reset :: rest ∧ t = resetBlock (popAccess rest s)) := by
  simp only [step, stepAccess] at h
  split at h
  · exact .inl ⟨‹_›, (Host.Outcome.next.inj h).symm⟩
  · rename_i a rest ha
    rw [ha]
    refine .inr ?_
    cases a with
    | write n v =>
      rcases portWrite_cases h with ⟨rfl, h⟩ | ⟨rfl, rfl⟩ | ⟨rfl, rfl⟩ | ⟨hn, rfl⟩
      · exact .inl ⟨v, rest, rfl, h⟩
      · exact .inr (.inl ⟨v, rest, rfl, rfl⟩)
      · exact .inr (.inr (.inl ⟨v, rest, rfl, rfl⟩))
      · exact .inr (.inr (.inr (.inl ⟨n, v, rest, rfl, hn, rfl⟩)))
    | read n =>
      simp only [perform, portRead] at h
      split at h
      · contradiction
      · rename_i r hr
        have hn := regOfNumber_number hr
        exact .inr (.inr (.inr (.inr (.inl ⟨r, rest, by rw [hn], (Host.Outcome.next.inj h).symm⟩))))
    | store i b =>
      simp only [perform, hostStore] at h
      split at h
      · contradiction
      · rename_i hi
        refine .inr (.inr (.inr (.inr (.inr (.inl ⟨i, b, rest, rfl, ?_, (Host.Outcome.next.inj h).symm⟩)))))
        simpa using hi
    | reset => exact .inr (.inr (.inr (.inr (.inr (.inr ⟨rest, rfl, (Host.Outcome.next.inj h).symm⟩)))))

/-- No command touches the host's accesses. -/
theorem exec_host {i : Instr} {s t : State} (h : exec i s = .next t) : t.host = s.host := by
  cases i with
  | attach => rcases execAttach_cases h with ⟨_, rfl⟩ | ⟨_, _, rfl⟩ <;> simp
  | nextFrame =>
    rcases execNextFrame_cases h with ⟨_, rfl⟩ | ⟨_, _, rfl⟩ | ⟨_, _, _, ⟨_, _, _, rfl⟩ | ⟨_, _, rfl⟩ | ⟨_, _, _, rfl⟩⟩ <;> simp
  | decodeHeader => rcases execDecodeHeader_cases h with ⟨_, rfl⟩ | ⟨_, _, rfl⟩ | ⟨_, _, _, _, rfl⟩ <;> simp
  | bitRange => rcases execBitRange_cases h with ⟨_, _, rfl⟩ | ⟨_, _, _, rfl⟩ <;> simp

/-- A step takes the host's next access, if there is one. -/
theorem step_host {s t : State} (h : step s = .next t) : t.host = s.host.tail := by
  rcases step_cases h with ⟨hh, rfl⟩ | ⟨v, rest, hh, h⟩ | ⟨v, rest, hh, rfl⟩ | ⟨v, rest, hh, rfl⟩ | ⟨n, v, rest, hh, _, rfl⟩ |
    ⟨r, rest, hh, rfl⟩ | ⟨i, b, rest, hh, _, rfl⟩ | ⟨rest, hh, rfl⟩ <;> rw [hh]
  · rfl
  · rcases issue_cases h with ⟨_, rfl⟩ | ⟨_, _, rfl⟩ | ⟨_, i, _, h⟩
    · simp
    · simp
    · simp [exec_host h]
  all_goals simp

/-- A rejected header's verdict and its numbers in RESULT and REASON (10_state.md R18, R19). -/
theorem headerCheck_codes {cfg : Config} {raw : HdrWord} {kind : Result} {why : Reason} (h : headerCheck cfg raw = .reject kind why) :
    (kind, why, resultCode kind, reasonCode why) ∈ rejectionCodes := by
  rcases headerCheck_reject h with ⟨rfl, rfl | rfl⟩ | ⟨rfl, rfl | rfl | rfl | rfl⟩ <;> decide

end Sys2Proof.Machine
end

