-- ==== Sys2Proof/Laws/PerInstr.lean ====
section
/-!
SUPPORT. Laws made per instruction. OpcodeField: the encoder puts the opcode map's number in OP and leaves bits [63:32] clear
(30_encoding.md R53, R54).
-/

def Sys2Proof.Laws.OpcodeField.Statement (i : Sys2Proof.Instr) : Prop :=
  (Sys2Proof.encode i).extractLsb' 0 4 = Sys2Proof.opcode i ∧ (Sys2Proof.encode i).extractLsb' 32 32 = 0#32

theorem Sys2Proof.Laws.OpcodeField.attach : Sys2Proof.Laws.OpcodeField.Statement .attach := by
  constructor <;> decide

theorem Sys2Proof.Laws.OpcodeField.nextFrame : Sys2Proof.Laws.OpcodeField.Statement .nextFrame := by
  constructor <;> decide

theorem Sys2Proof.Laws.OpcodeField.decodeHeader : Sys2Proof.Laws.OpcodeField.Statement .decodeHeader := by
  constructor <;> decide

theorem Sys2Proof.Laws.OpcodeField.bitRange (w : Sys2Proof.Width) (start stop : Sys2Proof.Bound) :
    Sys2Proof.Laws.OpcodeField.Statement (.bitRange w start stop) := by
  have h := Sys2Proof.command_fields start.posField stop.posField stop.kind start.kind w.sel 4#4
  exact ⟨h.1, h.2.2.2.2.2.2.2⟩
end

