-- ==== Sys2Proof/Laws/Run.lean ====
section
/-!
SUPPORT. Where the run of a host program ends (70_reset_and_hazards.md R107), said once: the count of its accesses, and what is left of
the program after them.
-/
namespace Sys2Proof.Machine

/-- A register access with none after it is the last access of the run. -/
theorem accessesInRun_append {before after : List HostAccess} {a : HostAccess} (ha : isRegisterAccess a = true)
    (hafter : after.any isRegisterAccess = false) : accessesInRun (before ++ a :: after) = before.length + 1 := by
  have hnil : accessesInRun after = 0 := by
    cases after with
    | nil => rfl
    | cons b rest => simp only [accessesInRun, hafter, Bool.false_eq_true, if_false]
  induction before with
  | nil => simp [accessesInRun, ha, hnil]
  | cons b rest ih => simp [accessesInRun, ha, ih]

/-- Without a register access the run is empty. -/
theorem accessesInRun_none {l : List HostAccess} (h : l.any isRegisterAccess = false) : accessesInRun l = 0 := by
  cases l with
  | nil => rfl
  | cons a rest => simp only [accessesInRun, h, Bool.false_eq_true, if_false]

/-- Running `k` steps takes the host's next `k` accesses. -/
theorem run_host {k : Nat} {s t : State} (h : Host.Core.run Sys2Proof.core k s = .next t) : t.host = s.host.drop k := by
  induction k generalizing s with
  | zero =>
    obtain rfl : s = t := Host.Outcome.next.inj h
    rfl
  | succ k ih =>
    simp only [Host.Core.run] at h
    split at h
    · rename_i s' hs
      rw [ih h, step_host hs, List.drop_tail]
    · contradiction
    · contradiction

end Sys2Proof.Machine
end

