-- ==== Sys2Proof/Tests/Slice0.lean ====
section
/-!
SUPPORT. The model's own tests. Expected values are those of spec/95_test_vectors.md (the vector's name stands in the test's docstring)
or are written out from the encoding tables of spec/30_encoding.md; none is the model's own answer. After them, for each obligation
with hypotheses, a witness: concrete states and operands that meet them together, each clause at the edge of its range.
-/
namespace Sys2Proof.Tests
open Sys2Proof Sys2Proof.Machine

/-- What `f` shows of the next state; none where the machine stops. -/
def seen (o : Host.Outcome State Fault Refusal) (f : State → List Nat) : Option (List Nat) :=
  match o with
  | .next t => some (f t)
  | .fault _ => none
  | .refused _ => none

/-- STATUS, CURSOR and HDR_RAW, the columns of the vectors' NEXT_FRAME table. -/
def outcome (t : State) : List Nat := [(statusWord t).toNat, t.cursor.toNat, t.hdrRaw.toNat]

/-- STATUS, HDR_RAW, BITRATE_KBPS and SAMPLING_RATE_HZ, the columns of the DECODE_HEADER table. -/
def header (t : State) : List Nat :=
  [(statusWord t).toNat, t.hdrRaw.toNat, (readReg t .bitrateKbps).toNat, (readReg t .samplingRateHz).toNat]

/-- BEXT_RESULT and STATUS, the columns of the BIT_RANGE table. -/
def extracted (t : State) : List Nat := [t.bextResult.toNat, (statusWord t).toNat]

/-- The state from reset with ARG0 and ARG1 written. -/
def withArgs (a0 a1 : Word) : State := { State.reset with arg0 := a0, arg1 := a1 }

/-- The state from reset with accesses of the host pending. -/
def withHost (l : List HostAccess) : State := { State.reset with host := l }

/-- The bytes stored from index 0 on, and the whole of them attached with CURSOR at `start`. -/
def attachedTo (bytes : List Byte) (start : Word) : State :=
  { State.reset with
    mem := bytes.zipIdx.map fun p => (p.2, p.1), attached := true, bufLen := BitVec.ofNat 64 bytes.length, cursor := start }

/-- A faulted state: what NEXT_FRAME leaves from reset. -/
def faulted (l : List HostAccess) : State := { State.reset with fault := true, faultCause := 2, host := l }

/-! WellFormed: each check has a term it refuses and the neighbour it accepts. -/

theorem test_wf_included_position : (Bound.included 256).wf = false ∧ (Bound.included 255).wf = true := by decide

theorem test_wf_excluded_position : (Bound.excluded 256).wf = false ∧ (Bound.excluded 255).wf = true := by decide

theorem test_wf_start_bound : (Instr.bitRange .w8 (.included 256) .unbounded).wf = false := by decide

theorem test_wf_end_bound : (Instr.bitRange .w64 (.excluded 255) (.excluded 256)).wf = false := by decide

/-! Decoding: words written out field by field from R53 and R54. -/

/-- OP = 0001, all else 0. -/
theorem test_decode_attach : decode (0#60 ++ 0b0001#4) = .ok .attach := by rfl

/-- OP = 0010, all else 0. -/
theorem test_decode_nextFrame : decode (0#60 ++ 0b0010#4) = .ok .nextFrame := by rfl

/-- OP = 0011, all else 0. -/
theorem test_decode_decodeHeader : decode (0#60 ++ 0b0011#4) = .ok .decodeHeader := by rfl

/-- EPOS = 16, SPOS = 12, reserved 000000, EKIND = 10, SKIND = 01, WSEL = 10, OP = 0100. -/
theorem test_decode_bitRange :
    decode (0#32 ++ 0b00010000#8 ++ 0b00001100#8 ++ 0b000000#6 ++ 0b10#2 ++ 0b01#2 ++ 0b10#2 ++ 0b0100#4)
      = .ok (.bitRange .w32 (.included 12) (.excluded 16)) := by rfl

/-- The CMD column of B1, B4, B10 and B18: the encoder gives the vectors' words. -/
theorem test_encode_bitRange :
    encode (.bitRange .w32 (.included 12) (.excluded 16)) = 0x00000000100C0264 ∧
    encode (.bitRange .w8 (.excluded 3) (.excluded 8)) = 0x0000000008030284 ∧
    encode (.bitRange .w8 (.excluded 8) .unbounded) = 0x0000000000080084 ∧
    encode (.bitRange .w64 .unbounded (.excluded 0)) = 0x0000000000000234 := by decide

/-- F2 to F8: each reserved encoding is refused under its name. -/
theorem test_decode_reserved :
    decode 0x0 = .error .reservedOpcode ∧ decode 0x5 = .error .reservedOpcode ∧ decode 0xF = .error .reservedOpcode ∧
    decode 0x12 = .error .operandBitsSet ∧ decode 0x0000000100000001 = .error .highBitsSet ∧
    decode 0xC4 = .error .reservedBoundKind ∧ decode 0x304 = .error .reservedBoundKind ∧
    decode 0x404 = .error .reservedBitsSet := ⟨rfl, rfl, rfl, rfl, rfl, rfl, rfl, rfl⟩

theorem test_decodeTableWord :
    decodeTableWord 64 0x3 = some .decodeHeader ∧
    decodeTableWord 32 0x100C0264 = some (.bitRange .w32 (.included 12) (.excluded 16)) ∧
    decodeTableWord 64 0x5 = none := ⟨rfl, rfl, rfl⟩

/-- The next step after `withFetchWord` runs the command: ATTACH of nothing, from reset, is ATTACHED_OK (F11 with length 0). -/
theorem test_withFetchWord :
    seen (step (State.reset.withFetchWord 64 0x1)) (fun t => [(statusWord t).toNat, t.host.length]) = some [0x206, 0] := by decide

/-! One step of each command. -/

/-- F11, its first command: `attach 5, 5`. -/
theorem test_attach : seen (exec .attach (withArgs 5 5)) outcome = some [0x206, 5, 0] := by decide

/-- F9: `attach 5, 6`. -/
theorem test_attach_start_beyond : seen (exec .attach (withArgs 5 6)) outcome = some [0x3400, 0, 0] := by decide

/-- S4: a protected header, the CRC skipped. -/
theorem test_nextFrame_crc :
    seen (exec .nextFrame (attachedTo [0xFF, 0xFC, 0x80, 0x00, 0xAB, 0xCD, 0x11] 0)) outcome = some [0x301, 6, 0xFFFC8000] := by
  decide

/-- S6: a false sync found by shifting. -/
theorem test_nextFrame_false_sync :
    seen (exec .nextFrame (attachedTo [0x00, 0x00, 0xFF, 0xFF, 0xFD, 0x80, 0x00] 0)) outcome = some [0x244, 6, 0] := by decide

/-- H13: Layer I, BITRATE_INDEX 14. -/
theorem test_decodeHeader : seen (exec .decodeHeader (withArgs 0xFFFFE000 0)) header = some [0x101, 0xFFFFE000, 448, 44100] := by
  decide

/-- H14: the order of the checks. -/
theorem test_decodeHeader_priority : seen (exec .decodeHeader (withArgs 0xFFF9FC02 0)) header = some [0x34, 0, 0, 0] := by decide

/-- B15: LAYER of H1. -/
theorem test_bitRange :
    seen (exec (.bitRange .w32 (.included 17) (.included 18)) (withArgs 0xFFFD8000 0)) extracted = some [0x2, 0x5] := by decide

/-- B19: both bounds are bad; INVERTED is checked first. -/
theorem test_bitRange_inverted :
    seen (exec (.bitRange .w8 (.included 200) (.excluded 3)) (withArgs 0xA5 0)) extracted = some [0, 0x5400] := by decide

/-! The port. -/

/-- F12: after a fault ARG0 stores, and a CMD write is ignored. -/
theorem test_halted :
    seen (step (faulted [.write 0x01 0xFFFC8000])) (fun t => [(statusWord t).toNat, t.arg0.toNat]) = some [0x2400, 0xFFFC8000] ∧
    seen (step (faulted [.write 0x00 0x3])) outcome = some [0x2400, 0, 0] := by decide

/-- H19: every field at its maximum legal value. -/
theorem test_field_registers :
    ([.fSync, .fVersionLow, .fVersionSel, .fLayer, .fProtection, .fBitrateIndex, .fSrateIndex, .fPadding, .fPrivate, .fChannelMode,
      .fModeExt, .fCopyright, .fOriginal, .fEmphasis] : List Reg).map
        (fun r => (readReg { State.reset with hdrRaw := 0xFFFFEBFF, hdrValid := true } r).toNat)
      = [0x7FF, 1, 1, 3, 1, 14, 2, 1, 1, 3, 3, 1, 1, 3] := by decide

/-- R107: the reset after the last register access is no part of the run, so F2 with a reset after it is a faulted run. -/
theorem test_run_ends_before_a_trailing_reset :
    faultedRun (withHost [.write 0x00 0x0, .reset]) ∧ ¬ successfulRun (withHost [.write 0x00 0x0, .reset]) := by
  refine ⟨⟨_, rfl, rfl⟩, ?_⟩
  rintro ⟨t, h, hf⟩
  obtain rfl := Host.Outcome.next.inj h
  exact absurd hf (by decide)

/-- P3, its lines 7 and 8: a reset before the last register access is part of the run. -/
theorem test_run_goes_on_after_a_reset : successfulRun (faulted [.reset, .write 0x01 0xFFFC8000, .write 0x00 0x3]) := ⟨_, rfl, rfl⟩

/-! Witnesses of the obligations' hypotheses. -/

theorem witness_DecodeOfEncodeIsIdentity :
    (Instr.bitRange .w64 (.included 255) (.excluded 255)).wf = true ∧ Instr.attach.wf = true := by decide

/-- Position bits under both unbounded kinds, which are ignored. -/
theorem witness_EncodeOfDecodeClearsIgnoredPositions :
    decode 0x00000000FFFF0034 = .ok (.bitRange .w64 .unbounded .unbounded) := by rfl

theorem witness_ReservedEncodingsRaiseIllegalCommand :
    ReservedWord 0x5 ∧ ReservedWord 0x404 ∧ ¬ ReservedWord 0x80000004 ∧
    (withHost [.write 0x00 0x5]).host = .write 0x00 0x5 :: [] ∧ (withHost [.write 0x00 0x5]).fault = false :=
  ⟨by decide, by decide, by decide, rfl, rfl⟩

theorem witness_HostLinesExpandAsTheTableSays : (Bound.included 255).wf = true ∧ (Bound.excluded 0).wf = true := by decide

/-- The lines at the edges: position 255 and 256, and CURSOR + N at 2^64 - 1 and 2^64. -/
theorem witness_LinesWithoutAnExpansion :
    (expandLine State.reset (.bitRange .w8 0 (.excluded 255) .unbounded)).isSome ∧
    expandLine State.reset (.bitRange .w8 0 .unbounded (.excluded 256)) = none ∧
    (expandLine State.reset (.skip (2 ^ 64 - 1))).isSome ∧ expandLine State.reset (.skip (2 ^ 64)) = none := by decide

theorem witness_StepRunsTheDecodedCommand :
    (withHost [.write 0x00 0x2]).host = .write 0x00 0x2 :: [] ∧ (withHost [.write 0x00 0x2]).fault = false ∧
    decode 0x2 = .ok .nextFrame := ⟨rfl, rfl, rfl⟩

theorem witness_IdleBlockKeepsItsState : State.reset.host = [] := rfl

/-- The edges of the unassigned numbers and of the buffer memory. -/
theorem witness_StepStopsOnlyOutsideTheInterface :
    step (withHost [.read 0x0A]) = .refused (.unassignedRegister 0x0A) ∧
    step (withHost [.write 0x0F 0]) = .refused (.unassignedRegister 0x0F) ∧
    step (withHost [.write 0x1E 0]) = .refused (.unassignedRegister 0x1E) ∧
    step (withHost [.store (2 ^ 32) 0]) = .fault (.noSuchBufferByte (2 ^ 32)) ∧
    (seen (step (withHost [.read 0x09])) outcome).isSome ∧ (seen (step (withHost [.write 0x1D 0])) outcome).isSome ∧
    (seen (step (withHost [.store (2 ^ 32 - 1) 0])) outcome).isSome := ⟨rfl, rfl, rfl, rfl, rfl, rfl, rfl⟩

theorem witness_PortWritesStoreOrAreIgnored :
    (∀ n ∈ [0x01, 0x02, 0x03, 0x09, 0x10, 0x1D], (withHost [.write n 7]).host = .write n 7 :: []) ∧
    (∀ n ∈ [0x03, 0x09, 0x10, 0x1D], (0x03 ≤ n ∧ n ≤ 0x09) ∨ (0x10 ≤ n ∧ n ≤ 0x1D)) := by decide

theorem witness_PortReadsReturnTheRegisters :
    ∀ n ∈ List.range 0x0A ++ List.range' 0x10 14, (withHost [.read n]).host = .read n :: [] := by decide

/-- A program whose last register access is the middle one. -/
theorem witness_RunEndsWithTheLastRegisterAccess :
    (withHost [.store 0 1, .write 0x00 0x0, .reset]).host = [.store 0 1] ++ .write 0x00 0x0 :: [.reset] ∧
    ∃ t, runEnd (withHost [.store 0 1, .write 0x00 0x0, .reset]) = .next t ∧ t.fault = true := ⟨rfl, _, rfl, rfl⟩

theorem witness_ProgramWithoutARegisterAccessHasAnEmptyRun :
    ∀ b ∈ (withHost [.store 0 1, .reset]).host, (∃ i x, b = .store i x) ∨ b = .reset := by simp [withHost]

theorem witness_ResetEventClearsTheBlock : (faulted [.reset]).host = .reset :: [] := rfl

theorem witness_HaltedBlockIgnoresCommands :
    (faulted []).fault = true ∧ (faulted [.write 0x00 0x3]).host = .write 0x00 0x3 :: [] ∧
    (faulted [.write 0x02 9]).host = .write 0x02 9 :: [] ∧
    (faulted [.read 0x1D]).host = .read (regNumber .fEmphasis) :: [] := ⟨rfl, rfl, rfl, rfl⟩

theorem witness_FaultIsStickyUntilReset :
    (faulted [.write 0x00 0x1]).fault = true ∧ (∃ t, step (faulted [.write 0x00 0x1]) = .next t) ∧
    ¬ AssertsReset (faulted [.write 0x00 0x1]) := ⟨rfl, ⟨_, rfl⟩, by simp [AssertsReset, faulted]⟩

theorem witness_FaultEntryIsPrecise :
    (withHost [.write 0x00 0x2]).fault = false ∧ ∃ t, step (withHost [.write 0x00 0x2]) = .next t ∧ t.fault = true :=
  ⟨rfl, _, rfl, rfl⟩

/-- At the edges: an 8-bit operand of all ones, and the empty span at W. -/
theorem witness_BitRangeExtractsTheField :
    (withArgs 0xFF 0).fault = false ∧ (withArgs 0xFF 0).arg0.toNat < 2 ^ (8 <<< Width.w8.sel.toNat) ∧
    spanLow (.excluded 7) ≤ spanHigh (8 <<< Width.w8.sel.toNat) .unbounded ∧
    spanHigh (8 <<< Width.w8.sel.toNat) .unbounded ≤ 8 <<< Width.w8.sel.toNat := by decide

/-- One input for each of the three checks, at its edge. -/
theorem witness_BitRangeChecksInOrder :
    (withArgs 0x100 0).fault = false ∧ 2 ^ (8 <<< Width.w8.sel.toNat) ≤ (withArgs 0x100 0).arg0.toNat ∧
    (withArgs 0xFF 0).arg0.toNat < 2 ^ (8 <<< Width.w8.sel.toNat) ∧
    spanHigh (8 <<< Width.w8.sel.toNat) .unbounded < spanLow (.excluded 8) ∧
    spanLow (.included 9) ≤ spanHigh (8 <<< Width.w8.sel.toNat) (.included 8) ∧
    8 <<< Width.w8.sel.toNat < spanHigh (8 <<< Width.w8.sel.toNat) (.included 8) := by decide

theorem witness_ExtractorEqualsTheSourceProcedure :
    (withArgs 0xFFFFFFFFFFFFFFFF 0).fault = false ∧
    ∃ t, exec (.bitRange .w64 (.included 64) (.excluded 64)) (withArgs 0xFFFFFFFFFFFFFFFF 0) = .next t ∧ t.fault = false :=
  ⟨rfl, _, rfl, rfl⟩

/-- The words of H7, H8, H9, H6, H3 and H4, as ARG0 holds them; the premise on ARG0 at its edge with H11, a word with VERSION = 11. -/
theorem witness_ReservedCodesAreReported :
    ((withArgs 0xFFFFFFFF 0).fault = false ∧ (withArgs 0xFFFFFFFF 0).arg0.toNat < 2 ^ 32 ∧
      (withArgs 0xFFFFFFFF 0).arg0.extractLsb' 19 2 = 0b11#2) ∧
    ((0xFFFDF000#64).extractLsb' 19 2 = 0b11#2 ∧ (0xFFFDF000#64).extractLsb' 17 2 ≠ 0b00#2 ∧
      (0xFFFDF000#64).extractLsb' 12 4 = 0b1111#4) ∧
    ((0xFFFD8C00#64).extractLsb' 19 2 = 0b11#2 ∧ (0xFFFD8C00#64).extractLsb' 17 2 ≠ 0b00#2 ∧
      (0xFFFD8C00#64).extractLsb' 12 4 ≠ 0b1111#4 ∧ (0xFFFD8C00#64).extractLsb' 10 2 = 0b11#2) ∧
    ((0xFFFD8002#64).extractLsb' 19 2 = 0b11#2 ∧ (0xFFFD8002#64).extractLsb' 17 2 ≠ 0b00#2 ∧
      (0xFFFD8002#64).extractLsb' 12 4 ≠ 0b1111#4 ∧ (0xFFFD8002#64).extractLsb' 10 2 ≠ 0b11#2 ∧
      (0xFFFD8002#64).extractLsb' 0 2 = 0b10#2) ∧
    ((0xFFF98000#64).extractLsb' 19 2 = 0b11#2 ∧ (0xFFF98000#64).extractLsb' 17 2 = 0b00#2) ∧
    (0xFFE58000#64).extractLsb' 19 2 = 0b00#2 ∧ (0xFFF58000#64).extractLsb' 19 2 = 0b10#2 :=
  ⟨⟨rfl, by decide, rfl⟩, ⟨rfl, by decide, rfl⟩, ⟨rfl, by decide, by decide, rfl⟩, ⟨rfl, by decide, by decide, by decide, rfl⟩,
    ⟨rfl, rfl⟩, rfl, rfl⟩

/-- H1 and H17, which differ in SYNC alone; and S9, a header that NEXT_FRAME returns. -/
theorem witness_SyncIsTestedOnlyByTheSynchronizer :
    (0xFFFD8000#32).extractLsb' 0 21 = (0x001D8000#32).extractLsb' 0 21 ∧
    ((withArgs 0x001D8000 0).fault = false ∧ (withArgs 0x001D8000 0).arg0.toNat < 2 ^ 32 ∧
      headerCheck (withArgs 0x001D8000 0).cfg (0x7FF#11 ++ (withArgs 0x001D8000 0).arg0.extractLsb' 0 21) = .accept) ∧
    (attachedTo [0xFF, 0xFD, 0x80, 0x00] 0).fault = false ∧ (attachedTo [0xFF, 0xFD, 0x80, 0x00] 0).attached = true ∧
    ∃ t, exec .nextFrame (attachedTo [0xFF, 0xFD, 0x80, 0x00] 0) = .next t ∧ t.result = 1 :=
  ⟨by decide, ⟨rfl, by decide, rfl⟩, rfl, rfl, _, rfl, rfl⟩

/-- H24, H1, H3: an ARG0 of 2^32, an accepted and a rejected word. -/
theorem witness_DecodeHeaderValidatesTheWord :
    (withArgs 0x100000000 0).fault = false ∧ 2 ^ 32 ≤ (withArgs 0x100000000 0).arg0.toNat ∧
    (withArgs 0xFFFD8000 0).arg0.toNat < 2 ^ 32 ∧ headerCheck defaultConfig 0xFFFD8000 = .accept ∧
    headerCheck defaultConfig 0xFFE58000 = .reject .unsupportedFormat .mpeg25 :=
  ⟨rfl, by decide, by decide, rfl, rfl⟩

/-- A state with a valid header that meets the invariant (what H1 leaves). -/
def withHeader : State := { State.reset with hdrRaw := 0xFFFD8000, hdrValid := true, result := 1 }

theorem reset_meets_the_invariant : Inv State.reset where
  config := by decide
  cursorInBuffer := by decide
  bufferInMemory := by decide
  unattachedEmpty := by decide
  noHeader := by decide
  headerAccepted := by decide
  headerResult := by decide
  resultKnown := by decide
  unsupportedReason := by decide
  invalidReason := by decide
  noReason := by decide
  noCause := by decide
  causeKnown := by decide
  memCanonical := by decide
  memInSpace := by decide
  unstableRising := by decide
  unstableAttached := by decide

theorem withHeader_meets_the_invariant : Inv withHeader :=
  { reset_meets_the_invariant with
    noHeader := by decide
    headerAccepted := by decide
    headerResult := by decide
    resultKnown := by decide
    unsupportedReason := by decide
    invalidReason := by decide
    noReason := by decide }

theorem witness_ValidHeaderShowsNoReservedCode : Inv withHeader ∧ withHeader.hdrValid = true :=
  ⟨withHeader_meets_the_invariant, rfl⟩

/-- The free-format header H12 too, and a state without a header. -/
theorem witness_DerivedRegistersLookUpTheTables :
    (Inv withHeader ∧ withHeader.hdrValid = true) ∧
    (Inv { withHeader with hdrRaw := 0xFFFD0000 } ∧ (0xFFFD0000#32).extractLsb' 12 4 = 0#4) ∧ State.reset.hdrValid = false :=
  ⟨⟨withHeader_meets_the_invariant, rfl⟩,
    ⟨{ withHeader_meets_the_invariant with noHeader := by decide, headerAccepted := by decide }, by decide⟩, rfl⟩

/-- The fields of H19. -/
theorem witness_HeaderFieldsRoundTrip :
    (withArgs 0xFFFFEBFF 0).fault = false ∧
    (withArgs 0xFFFFEBFF 0).arg0 = (0x7FF#11 ++ 0b11#2 ++ 3#2 ++ 1#1 ++ 14#4 ++ 2#2 ++ 1#1 ++ 1#1 ++ 3#2 ++ 3#2 ++ 1#1 ++ 1#1
      ++ 3#2).setWidth 64 ∧
    3#2 ≠ 0b00#2 ∧ 14#4 ≠ 0b1111#4 ∧ 2#2 ≠ 0b11#2 ∧ 3#2 ≠ 0b10#2 :=
  ⟨rfl, by decide, by decide, by decide, by decide, by decide⟩

/-- Both kinds of range fault and the longest buffer of ADDR_W = 32. -/
theorem witness_AttachPlacesTheView :
    State.reset.fault = false ∧ 2 ^ (withArgs 0x100000000 0).cfg.addrW ≤ (withArgs 0x100000000 0).arg0.toNat ∧
    (withArgs 5 6).arg0.toNat < (withArgs 5 6).arg1.toNat ∧
    (withArgs 0xFFFFFFFF 0xFFFFFFFF).arg0.toNat < 2 ^ (withArgs 0xFFFFFFFF 0xFFFFFFFF).cfg.addrW ∧
    (withArgs 0xFFFFFFFF 0xFFFFFFFF).arg1.toNat ≤ (withArgs 0xFFFFFFFF 0xFFFFFFFF).arg0.toNat := by decide

theorem witness_NextFrameNeedsAnAttachment : State.reset.fault = false ∧ State.reset.attached = false := ⟨rfl, rfl⟩

theorem firstSync_of_check {s : State} {m : Nat} (h1 : s.cursor.toNat ≤ m) (h2 : m + 4 ≤ s.bufLen.toNat)
    (h3 : HasSync (streamWord s m)) (h4 : ∀ k < m, ¬ HasSync (streamWord s k)) : FirstSync s m :=
  ⟨h1, h2, h3, fun k _ hk => h4 k hk⟩

/-- A state for every row of the table, and the candidate's place: S3, S2, S6 (a false sync at 2), S9, S12 and S5. -/
theorem witness_NextFrameOutcomeTable :
    ((attachedTo [0xFF, 0xFD, 0x80] 0).bufLen.toNat - (attachedTo [0xFF, 0xFD, 0x80] 0).cursor.toNat < 4) ∧
    (4 ≤ (attachedTo [0, 0x11, 0x22, 0x33] 0).bufLen.toNat - (attachedTo [0, 0x11, 0x22, 0x33] 0).cursor.toNat ∧
      NoSync (attachedTo [0, 0x11, 0x22, 0x33] 0)) ∧
    (FirstSync (attachedTo [0, 0, 0xFF, 0xFF, 0xFD, 0x80, 0] 0) 2 ∧
      headerCheck defaultConfig (streamWord (attachedTo [0, 0, 0xFF, 0xFF, 0xFD, 0x80, 0] 0) 2)
        = .reject .invalidHeader .bitrateInvalid) ∧
    (FirstSync (attachedTo [0xFF, 0xFD, 0x80, 0] 0) 0 ∧
      headerCheck defaultConfig (streamWord (attachedTo [0xFF, 0xFD, 0x80, 0] 0) 0) = .accept ∧
      (streamWord (attachedTo [0xFF, 0xFD, 0x80, 0] 0) 0).getLsbD 16 = true) ∧
    (FirstSync (attachedTo [0xFF, 0xFC, 0x80, 0, 0xAB, 0xCD] 0) 0 ∧
      headerCheck defaultConfig (streamWord (attachedTo [0xFF, 0xFC, 0x80, 0, 0xAB, 0xCD] 0) 0) = .accept ∧
      (streamWord (attachedTo [0xFF, 0xFC, 0x80, 0, 0xAB, 0xCD] 0) 0).getLsbD 16 = false ∧
      2 ≤ (attachedTo [0xFF, 0xFC, 0x80, 0, 0xAB, 0xCD] 0).bufLen.toNat - (0 + 4)) ∧
    (FirstSync (attachedTo [0xFF, 0xFC, 0x80, 0, 0xAB] 0) 0 ∧
      (attachedTo [0xFF, 0xFC, 0x80, 0, 0xAB] 0).bufLen.toNat - (0 + 4) < 2) := by
  refine ⟨by decide, ⟨by decide, ?_⟩, ⟨firstSync_of_check (by decide) (by decide) (by decide) (by decide), by decide⟩,
    ⟨firstSync_of_check (by decide) (by decide) (by decide) (by decide), by decide, by decide⟩,
    ⟨firstSync_of_check (by decide) (by decide) (by decide) (by decide), by decide, by decide, by decide⟩,
    ⟨firstSync_of_check (by decide) (by decide) (by decide) (by decide), by decide⟩⟩
  intro k _ hk
  obtain rfl : k = 0 := by simpa [attachedTo] using hk
  decide

/-- S10, the empty buffer. -/
theorem witness_NextFrameCompletes : (attachedTo [] 0).fault = false ∧ (attachedTo [] 0).attached = true := ⟨rfl, rfl⟩

theorem witness_FindingACandidateMakesProgress :
    (attachedTo [0xFF, 0xE5, 0x80, 0] 0).fault = false ∧ (attachedTo [0xFF, 0xE5, 0x80, 0] 0).attached = true ∧
    FirstSync (attachedTo [0xFF, 0xE5, 0x80, 0] 0) 0 :=
  ⟨rfl, rfl, firstSync_of_check (by decide) (by decide) (by decide) (by decide)⟩

/-- S3 for the first and third clause; for the second, 3 bytes left and a host store next. -/
theorem witness_EndOfStreamIsStable :
    (∃ t, exec .nextFrame (attachedTo [0xFF, 0xFD, 0x80] 0) = .next t ∧ t.result = 2) ∧
    AtEnd (attachedTo [0xFF, 0xFD, 0x80] 0) ∧ (attachedTo [0xFF, 0xFD, 0x80] 0).fault = false ∧
    (∃ t, step { attachedTo [0xFF, 0xFD, 0x80] 0 with host := [.store 0 1] } = .next t) ∧
    ¬ AssertsReset { attachedTo [0xFF, 0xFD, 0x80] 0 with host := [.store 0 1] } ∧
    ¬ Issues { attachedTo [0xFF, 0xFD, 0x80] 0 with host := [.store 0 1] } .attach :=
  ⟨⟨_, rfl, rfl⟩, by decide, rfl, ⟨_, rfl⟩, by simp [AssertsReset], by simp [Issues]⟩

/-- E3: the same header with the CRC bytes AB CD and 00 00. -/
theorem witness_CrcBytesAreNotInspected :
    (∃ t, exec .nextFrame (attachedTo [0xFF, 0xFC, 0x80, 0, 0xAB, 0xCD] 0) = .next t ∧ t.result = 1 ∧ t.hdrRaw.getLsbD 16 = false ∧
      t.cursor = 6) ∧
    ∀ i < 4, memByte (attachedTo [0xFF, 0xFC, 0x80, 0, 0, 0] 0).mem i
      = memByte (attachedTo [0xFF, 0xFC, 0x80, 0, 0xAB, 0xCD] 0).mem i := ⟨⟨_, rfl, rfl, rfl, rfl⟩, by decide⟩

/-- A buffer of three bytes, and a memory that differs from index 3 on. -/
theorem witness_BytesBeyondTheBufferAreNotRead :
    (∃ t, exec .nextFrame (attachedTo [0xFF, 0xFD, 0x80] 0) = .next t) ∧
    ∀ k < 3, memByte (attachedTo [0xFF, 0xFD, 0x80, 0x77] 0).mem k = memByte (attachedTo [0xFF, 0xFD, 0x80] 0).mem k :=
  ⟨⟨_, rfl⟩, by decide⟩

/-- A NEXT_FRAME is issued. -/
theorem witness_CursorNeverDecreases :
    (∃ t, step { attachedTo [0xFF, 0xFD, 0x80, 0] 0 with host := [.write 0x00 0x2] } = .next t) ∧
    ¬ AssertsReset { attachedTo [0xFF, 0xFD, 0x80, 0] 0 with host := [.write 0x00 0x2] } ∧
    ¬ Issues { attachedTo [0xFF, 0xFD, 0x80, 0] 0 with host := [.write 0x00 0x2] } .attach := by
  refine ⟨⟨_, rfl⟩, by simp [AssertsReset], ?_⟩
  rintro ⟨v, rest, hh, _, hd⟩
  obtain ⟨rfl, -⟩ : (0x2 : Word) = v ∧ [] = rest := by simpa using hh
  exact absurd hd (by decide)

/-- A DECODE_HEADER is issued, so neither ATTACH nor NEXT_FRAME is. -/
theorem witness_OnlyAttachAndResetWriteTheView :
    (∃ t, step (withHost [.write 0x00 0x3]) = .next t) ∧ ¬ AssertsReset (withHost [.write 0x00 0x3]) ∧
    ∀ i ∈ [Instr.attach, Instr.nextFrame], ¬ Issues (withHost [.write 0x00 0x3]) i := by
  refine ⟨⟨_, rfl⟩, by simp [AssertsReset, withHost], ?_⟩
  rintro i hi ⟨v, rest, hh, _, hd⟩
  obtain ⟨rfl, -⟩ : (0x3 : Word) = v ∧ [] = rest := by simpa [withHost] using hh
  obtain rfl : Instr.decodeHeader = i := by
    rw [show decode (0x3 : Word) = .ok .decodeHeader from rfl] at hd
    exact Except.ok.inj hd
  exact absurd hi (by decide)

/-- A decoded header, an extraction and a fault. -/
theorem witness_ResultsAndFaultChangeOnlyAsListed :
    (∃ t, step { withArgs 0xFFFD8000 0 with host := [.write 0x00 0x3] } = .next t ∧ t.hdrRaw ≠ 0) ∧
    (∃ t, step { withArgs 0xA5 0 with host := [.write 0x00 0x4] } = .next t ∧ t.bextResult ≠ 0) ∧
    (∃ t, step (withHost [.write 0x00 0x0]) = .next t ∧ t.fault ≠ false) :=
  ⟨⟨_, rfl, by decide⟩, ⟨_, rfl, by decide⟩, ⟨_, rfl, by decide⟩⟩

theorem witness_ResultsBelongToTheirCommands :
    (∃ t, exec .attach (withArgs 0 0) = .next t ∧ t.fault = false) ∧
    (∃ t, exec .nextFrame (attachedTo [] 0) = .next t ∧ t.fault = false) ∧
    (∃ t, exec .decodeHeader (withArgs 0xFFFFFFFF 0) = .next t ∧ t.fault = false) ∧
    (∃ t, exec (.bitRange .w8 .unbounded .unbounded) (withArgs 0xFF 0) = .next t ∧ t.fault = false) :=
  ⟨⟨_, rfl, rfl⟩, ⟨_, rfl, rfl⟩, ⟨_, rfl, rfl⟩, ⟨_, rfl, rfl⟩⟩

/-- For each clause: a decoded header (H1), an extracted field (B15), and a command that faults (B19). -/
theorem witness_ResultRegistersAreNoInputs :
    (withArgs 0xFFFD8000 0).fault = false ∧ (withArgs 0xA5 0).fault = false ∧
    (∀ w start stop, Instr.decodeHeader ≠ .bitRange w start stop) ∧
    (∃ t, exec .decodeHeader (withArgs 0xFFFD8000 0) = .next t ∧ t.fault = false) ∧
    (∃ t, exec (.bitRange .w32 (.included 17) (.included 18)) (withArgs 0xFFFD8000 0) = .next t ∧ t.fault = false) ∧
    ∃ t, exec (.bitRange .w8 (.included 200) (.excluded 3)) (withArgs 0xA5 0) = .next t ∧ t.fault = true :=
  ⟨rfl, rfl, by simp, ⟨_, rfl, rfl⟩, ⟨_, rfl, rfl⟩, _, rfl, rfl⟩

theorem witness_CommandsLeaveTheRestUnchanged :
    (∃ t, exec .decodeHeader (withArgs 0xFFFD8000 0) = .next t) ∧ Instr.decodeHeader ≠ .attach ∧ Instr.decodeHeader ≠ .nextFrame ∧
    (∀ w start stop, Instr.decodeHeader ≠ .bitRange w start stop) ∧
    ∃ t, exec (.bitRange .w8 (.included 5) (.excluded 3)) (withArgs 0xA5 0) = .next t :=
  ⟨⟨_, rfl⟩, by decide, by decide, by simp, ⟨_, rfl⟩⟩

/-- The last byte of the buffer memory. -/
theorem witness_HostStoreWritesOneByte :
    (withHost [.store 0xFFFFFFFF 0x5A]).host = .store 0xFFFFFFFF 0x5A :: [] ∧
    0xFFFFFFFF < 2 ^ (withHost [.store 0xFFFFFFFF 0x5A]).cfg.addrW := ⟨rfl, by decide⟩

/-- The last attached byte is stored to; then it is listed, and an ATTACH of the same buffer ends the draws. -/
theorem witness_AttachedStoreMakesReadsDraws :
    let s : State := { attachedTo [1, 2, 3] 0 with host := [.store 2 9] }
    let u : State := { attachedTo [1, 2, 3] 0 with unstable := [2], host := [.read 0x04] }
    let v : State := { attachedTo [1, 2, 3] 0 with unstable := [2], arg0 := 3, host := [.write 0x00 0x1] }
    (s.attached = true ∧ 2 < s.bufLen.toNat ∧ 2 < 2 ^ s.cfg.addrW) ∧
    (2 ∈ u.unstable ∧ (∃ t, step u = .next t) ∧ ¬ AssertsReset u ∧ ¬ Issues u .attach) ∧
    (Issues v .attach ∧ ∃ t, step v = .next t ∧ t.fault = false) :=
  ⟨by decide, ⟨by decide, ⟨_, rfl⟩, by simp [AssertsReset], by simp [Issues]⟩, ⟨⟨_, _, rfl, rfl, rfl⟩, _, rfl, rfl⟩⟩

theorem attachedTo_meets_the_invariant : Inv (attachedTo [1, 2, 3] 1) :=
  { reset_meets_the_invariant with
    cursorInBuffer := by decide
    bufferInMemory := by decide
    unattachedEmpty := by decide
    memCanonical := by decide
    memInSpace := by decide
    unstableAttached := by decide }

/-- `skip 2` to the end of a buffer of three bytes, and `skip 3` beyond it. -/
theorem witness_SkipMovesTheCursor :
    Inv (attachedTo [1, 2, 3] 1) ∧ (attachedTo [1, 2, 3] 1).fault = false ∧
    (∃ l, expandLine (attachedTo [1, 2, 3] 1) (.skip 2) = some l) ∧ (∃ l, expandLine (attachedTo [1, 2, 3] 1) (.skip 3) = some l) ∧
    (attachedTo [1, 2, 3] 1).cursor.toNat + 2 ≤ (attachedTo [1, 2, 3] 1).bufLen.toNat ∧
    (attachedTo [1, 2, 3] 1).bufLen.toNat < (attachedTo [1, 2, 3] 1).cursor.toNat + 3 :=
  ⟨attachedTo_meets_the_invariant, rfl, ⟨_, rfl⟩, ⟨_, rfl⟩, by decide, by decide⟩

theorem witness_EveryStepKeepsTheInvariant :
    Inv { withHeader with host := [.write 0x00 0x2] } ∧ ∃ t, step { withHeader with host := [.write 0x00 0x2] } = .next t :=
  ⟨{ withHeader_meets_the_invariant with }, _, rfl⟩

end Sys2Proof.Tests
end

namespace Sys2Proof.Machine

/-! What each command writes: the next state is the old one but for the fields listed, the "State written" of the command's rule and
what a fault writes (60_exceptions.md R89). The commands' frames are read off these equations. -/

/-- 44_facade.md R81. -/
theorem exec_attach_writes {s t : State} (h : exec .attach s = .next t) :
    t = { s with
          attached := t.attached, bufLen := t.bufLen, cursor := t.cursor, unstable := t.unstable
          hdrValid := t.hdrValid, hdrRaw := t.hdrRaw, result := t.result, reason := t.reason
          fault := t.fault, faultCause := t.faultCause } := by
  rcases execAttach_cases h with ⟨_, rfl⟩ | ⟨_, _, rfl⟩
  · rfl
  · rfl

/-- 44_facade.md R82; `draws` counts the reads of 20_memory.md R37. -/
theorem exec_nextFrame_writes {s t : State} (h : exec .nextFrame s = .next t) :
    t = { s with
          cursor := t.cursor, draws := t.draws
          hdrValid := t.hdrValid, hdrRaw := t.hdrRaw, result := t.result, reason := t.reason
          fault := t.fault, faultCause := t.faultCause } := by
  rcases execNextFrame_cases h with ⟨_, rfl⟩ | ⟨_, _, rfl⟩ | ⟨_, _, _, ⟨_, _, _, rfl⟩ | ⟨_, _, rfl⟩ | ⟨_, _, _, rfl⟩⟩
  all_goals rfl

/-- 42_header_model.md R69. -/
theorem exec_decodeHeader_writes {s t : State} (h : exec .decodeHeader s = .next t) :
    t = { s with
          hdrValid := t.hdrValid, hdrRaw := t.hdrRaw, result := t.result, reason := t.reason
          fault := t.fault, faultCause := t.faultCause } := by
  rcases execDecodeHeader_cases h with ⟨_, rfl⟩ | ⟨_, _, rfl⟩ | ⟨_, _, _, _, rfl⟩
  · rfl
  · rfl
  · rfl

/-- 41_bit_range.md R65. -/
theorem exec_bitRange_writes {w : Width} {start stop : Bound} {s t : State} (h : exec (.bitRange w start stop) s = .next t) :
    t = { s with
          bextResult := t.bextResult, result := t.result, reason := t.reason
          fault := t.fault, faultCause := t.faultCause } := by
  rcases execBitRange_cases h with ⟨_, _, rfl⟩ | ⟨_, _, _, rfl⟩
  · rfl
  · rfl

/-- Settles O49: each command's part of the frame is what its equation above does not list. -/
theorem commandsLeaveTheRestUnchanged : Obligations.CommandsLeaveTheRestUnchanged := by
  intro i s t h
  cases i with
  | attach => rw [exec_attach_writes h]; simp
  | nextFrame => rw [exec_nextFrame_writes h]; simp
  | decodeHeader => rw [exec_decodeHeader_writes h]; simp
  | bitRange w start stop => rw [exec_bitRange_writes h]; simp

end Sys2Proof.Machine

namespace Sys2Proof.Machine

/-! The invariant under each named update of the state: one lemma per update, so that the proof about a step only puts them
together. -/

/-- The REASON that may stand beside a RESULT (10_state.md R17, R19). -/
def ReasonFits : Result → Reason → Prop
  | .unsupportedFormat, why => why = .mpeg25 ∨ why = .mpeg2
  | .invalidHeader, why => why = .layerReserved ∨ why = .bitrateInvalid ∨ why = .samplingReserved ∨ why = .emphasisReserved
  | _, why => why = .none

/-- The pairing in the numbers of RESULT and REASON. -/
theorem codes_of_reasonFits {res : Result} {why : Reason} (h : ReasonFits res why) :
    (resultCode res = 3 → reasonCode why = 1 ∨ reasonCode why = 2) ∧
      (resultCode res = 4 → reasonCode why = 3 ∨ reasonCode why = 4 ∨ reasonCode why = 5 ∨ reasonCode why = 6) ∧
      (resultCode res ≠ 3 → resultCode res ≠ 4 → reasonCode why = 0) := by
  cases res with
  | unsupportedFormat => rcases h with rfl | rfl <;> decide
  | invalidHeader => rcases h with rfl | rfl | rfl | rfl <;> decide
  | _ => obtain rfl := h; decide

theorem resultCode_le (res : Result) : (resultCode res).toNat ≤ 6 := by
  cases res <;> decide

theorem resultCode_eq_one {res : Result} : resultCode res = 1 ↔ res = .header := by
  cases res <;> decide

theorem causeCode_range (cause : FaultCause) : 1 ≤ (causeCode cause).toNat ∧ (causeCode cause).toNat ≤ 6 := by
  cases cause <;> decide

/-- A rejected header is reported as one of the two errors, with a reason that fits it. -/
theorem reasonFits_of_reject {cfg : Config} {raw : HdrWord} {kind : Result} {why : Reason}
    (h : headerCheck cfg raw = .reject kind why) : kind ≠ .header ∧ ReasonFits kind why := by
  rcases headerCheck_reject h with ⟨rfl, hwhy⟩ | ⟨rfl, hwhy⟩
  · exact ⟨by decide, hwhy⟩
  · exact ⟨by decide, hwhy⟩

theorem inv_popAccess {s : State} (hs : Inv s) (rest : List HostAccess) : Inv (popAccess rest s) :=
  { hs with }

theorem inv_raiseFault {s : State} (hs : Inv s) (cause : FaultCause) : Inv (raiseFault cause s) :=
  { hs with
    noCause := by simp
    causeKnown := fun _ => causeCode_range cause }

theorem inv_finish {s : State} (hs : Inv s) {res : Result} {why : Reason} (hfit : ReasonFits res why)
    (hheader : res = .header → s.hdrValid = true) : Inv (finish res why s) :=
  have ⟨hunsupported, hinvalid, hother⟩ := codes_of_reasonFits hfit
  { hs with
    headerResult := fun h => hheader (resultCode_eq_one.mp h)
    resultKnown := resultCode_le res
    unsupportedReason := hunsupported
    invalidReason := hinvalid
    noReason := hother }

theorem inv_setHeader {s : State} (hs : Inv s) {raw : HdrWord} (hok : headerCheck s.cfg raw = .accept) :
    Inv (setHeader raw s) :=
  { hs with
    noHeader := by simp
    headerAccepted := fun _ => hok
    headerResult := fun _ => rfl }

theorem inv_clearHeader {s : State} (hs : Inv s) (hres : s.result ≠ 1) : Inv (clearHeader s) :=
  { hs with
    noHeader := fun _ => rfl
    headerAccepted := by simp
    headerResult := fun h => absurd h hres }

/-- A command that clears the header gives a RESULT other than HEADER, so the two updates keep the invariant together: the order in
which they are written is no matter. -/
theorem inv_finish_clearHeader {s : State} (hs : Inv s) {res : Result} {why : Reason} (hfit : ReasonFits res why)
    (hres : res ≠ .header) : Inv (finish res why (clearHeader s)) :=
  inv_clearHeader (inv_finish hs hfit fun h => absurd h hres) (mt resultCode_eq_one.mp hres)

theorem inv_moveCursor {s : State} (hs : Inv s) (hatt : s.attached = true) {c : Nat} (d : Nat) (hc : c ≤ s.bufLen.toNat) :
    Inv (moveCursor c d s) :=
  { hs with
    cursorInBuffer := (Nat.mod_le c _).trans hc
    unattachedEmpty := by simp [hatt] }

theorem inv_attachView {s : State} (hs : Inv s) {len start : Word} (hlen : len.toNat < 2 ^ s.cfg.addrW)
    (hstart : start.toNat ≤ len.toNat) : Inv (attachView len start s) :=
  { hs with
    cursorInBuffer := hstart
    bufferInMemory := hlen
    unattachedEmpty := by simp
    unstableRising := .nil
    unstableAttached := by simp }

/-- A host store inside the buffer memory (20_memory.md R30, R37). -/
theorem inv_store {s : State} (hs : Inv s) {i : Nat} (b : Byte) (hi : i < 2 ^ s.cfg.addrW) :
    Inv { s with
          mem := memStore s.mem i b
          unstable := if s.attached ∧ i < s.bufLen.toNat then insertIndex s.unstable i else s.unstable } :=
  { hs with
    memCanonical := memStore_wf s.mem i b hs.memCanonical
    memInSpace := by
      intro cell hcell
      rcases mem_memStore hcell with rfl | hold
      · exact hi
      · exact hs.memInSpace cell hold
    unstableRising := by
      dsimp only
      split
      · exact insertIndex_rising i hs.unstableRising
      · exact hs.unstableRising
    unstableAttached := by
      dsimp only
      split
      · rename_i hattached
        intro j hj
        rcases mem_insertIndex.mp hj with rfl | hold
        · exact hattached.2
        · exact hs.unstableAttached j hold
      · exact hs.unstableAttached }

/-- After a reset the invariant asks only of what reset leaves: the parameters and the buffer memory (10_state.md R29). -/
theorem inv_resetBlock {s : State} (hcfg : s.cfg.wf) (hmem : Memory.wf s.mem)
    (hspace : ∀ cell ∈ s.mem, cell.1 < 2 ^ s.cfg.addrW) : Inv (resetBlock s) where
  config := hcfg
  cursorInBuffer := le_refl 0
  bufferInMemory := Nat.two_pow_pos _
  unattachedEmpty _ := ⟨rfl, rfl⟩
  noHeader _ := rfl
  headerAccepted := by simp
  headerResult := by simp
  resultKnown := by simp
  unsupportedReason := by simp
  invalidReason := by simp
  noReason _ _ := rfl
  noCause _ := rfl
  causeKnown := by simp
  memCanonical := hmem
  memInSpace := hspace
  unstableRising := .nil
  unstableAttached := by simp

/-! The place of CURSOR after a scan and a CRC skip. -/

/-- The scan never moves back, and it stays inside the buffer unless it does not move (43_synchronizer.md R78). -/
theorem syncScan_cursor (s : State) :
    s.cursor.toNat ≤ (syncScan s).cursor ∧
      ((syncScan s).cursor = s.cursor.toNat ∨ (syncScan s).cursor ≤ s.bufLen.toNat) := by
  cases hf : (syncScan s).found with
  | none =>
    rcases syncScan_none hf with ⟨_, hscan⟩ | ⟨h4, hcursor⟩
    · exact ⟨by rw [hscan], .inl (by rw [hscan])⟩
    · exact ⟨by omega, .inr hcursor.le⟩
  | some cand =>
    obtain ⟨_, hmoved, hin⟩ := syncScan_some hf
    exact ⟨by omega, .inr hin⟩

theorem crcSkip_le {s : State} {cand : HdrWord} {c c' : Nat} (h : crcSkip s cand c = some c') :
    c ≤ c' ∧ (c' = c ∨ c' ≤ s.bufLen.toNat) := by
  rcases crcSkip_some h with ⟨_, rfl⟩ | ⟨_, hleft, rfl⟩
  · exact ⟨le_refl _, .inl rfl⟩
  · exact ⟨by omega, .inr (by omega)⟩

/-! Every command, then every step. -/

theorem exec_attach_keeps_inv {s t : State} (hs : Inv s) (h : exec .attach s = .next t) : Inv t := by
  rcases execAttach_cases h with ⟨_, rfl⟩ | ⟨hlen, hstart, rfl⟩
  · exact inv_raiseFault hs _
  · exact inv_finish_clearHeader (inv_attachView hs hlen hstart) rfl (by decide)

theorem exec_decodeHeader_keeps_inv {s t : State} (hs : Inv s) (h : exec .decodeHeader s = .next t) : Inv t := by
  rcases execDecodeHeader_cases h with ⟨_, rfl⟩ | ⟨_, hok, rfl⟩ | ⟨_, kind, why, hrej, rfl⟩
  · exact inv_raiseFault hs _
  · exact inv_finish (inv_setHeader hs hok) rfl fun _ => rfl
  · obtain ⟨hkind, hfit⟩ := reasonFits_of_reject hrej
    exact inv_finish_clearHeader hs hfit hkind

theorem exec_bitRange_keeps_inv {w : Width} {start stop : Bound} {s t : State} (hs : Inv s)
    (h : exec (.bitRange w start stop) s = .next t) : Inv t := by
  rcases execBitRange_cases h with ⟨_, cause, rfl⟩ | ⟨_, _, _, rfl⟩
  · exact inv_raiseFault hs cause
  · have hbext : ∀ v, Inv { s with bextResult := v } := fun _ => { hs with }
    exact inv_finish (hbext _) rfl nofun

theorem exec_nextFrame_keeps_inv {s t : State} (hs : Inv s) (h : exec .nextFrame s = .next t) : Inv t := by
  have hscan : (syncScan s).cursor ≤ s.bufLen.toNat := by
    have := syncScan_cursor s
    have := hs.cursorInBuffer
    omega
  rcases execNextFrame_cases h with ⟨_, rfl⟩ | ⟨hatt, _, rfl⟩ |
    ⟨hatt, cand, _, ⟨kind, why, hrej, rfl⟩ | ⟨_, _, rfl⟩ | ⟨hok, c', hcrc, rfl⟩⟩
  · exact inv_raiseFault hs _
  · exact inv_finish_clearHeader (inv_moveCursor hs hatt _ hscan) rfl (by decide)
  · obtain ⟨hkind, hfit⟩ := reasonFits_of_reject hrej
    exact inv_finish_clearHeader (inv_moveCursor hs hatt _ hscan) hfit hkind
  · exact inv_finish_clearHeader (inv_moveCursor hs hatt _ hscan) rfl (by decide)
  · have hc' : c' ≤ s.bufLen.toNat := by
      have := crcSkip_le hcrc
      omega
    exact inv_finish (inv_setHeader (inv_moveCursor hs hatt _ hc') hok) rfl fun _ => rfl

theorem exec_keeps_inv {i : Instr} {s t : State} (hs : Inv s) (h : exec i s = .next t) : Inv t := by
  cases i with
  | attach => exact exec_attach_keeps_inv hs h
  | nextFrame => exact exec_nextFrame_keeps_inv hs h
  | decodeHeader => exact exec_decodeHeader_keeps_inv hs h
  | bitRange w start stop => exact exec_bitRange_keeps_inv hs h

theorem issue_keeps_inv {v : Word} {s t : State} (hs : Inv s) (h : issue v s = .next t) : Inv t := by
  rcases issue_cases h with ⟨_, rfl⟩ | ⟨_, _, rfl⟩ | ⟨_, i, _, hexec⟩
  · exact hs
  · exact inv_raiseFault hs _
  · exact exec_keeps_inv hs hexec

/-- Settles O54: the host's access is taken off the list, and each kind of access keeps the invariant. -/
theorem everyStepKeepsTheInvariant : Obligations.EveryStepKeepsTheInvariant := by
  intro s t hs h
  rcases step_cases h with ⟨_, rfl⟩ | ⟨v, rest, _, hissue⟩ | ⟨v, rest, _, rfl⟩ | ⟨v, rest, _, rfl⟩ | ⟨_, _, rest, _, _, rfl⟩ |
    ⟨r, rest, _, rfl⟩ | ⟨i, b, rest, _, hi, rfl⟩ | ⟨rest, _, rfl⟩
  · exact hs
  · exact issue_keeps_inv (inv_popAccess hs rest) hissue
  · exact { inv_popAccess hs rest with }
  · exact { inv_popAccess hs rest with }
  · exact inv_popAccess hs rest
  · exact { inv_popAccess hs rest with }
  · exact inv_store (inv_popAccess hs rest) b hi
  · exact inv_resetBlock hs.config hs.memCanonical hs.memInSpace

/-- Settles O53: the reset state is what a reset leaves of itself. -/
theorem invariantHoldsAtReset : Obligations.InvariantHoldsAtReset :=
  inv_resetBlock (s := State.reset) (by decide) reset_mem_wf (by simp [State.reset])

/-! The register map, and what a step leaves on a register read and on reset. -/

theorem mem_allRegs (r : Reg) : r ∈ allRegs := by
  cases r <;> decide

/-- Each register is found under its own number. -/
theorem regOfNumber_eq_some {n : Nat} {r : Reg} : regOfNumber n = some r ↔ regNumber r = n := by
  refine ⟨regOfNumber_number, ?_⟩
  rintro rfl
  cases r <;> rfl

/-- The numbers the map of 10_state.md R16 assigns. -/
theorem exists_regNumber {n : Nat} : (∃ r, regNumber r = n) ↔ n ≤ 0x09 ∨ (0x10 ≤ n ∧ n ≤ 0x1D) := by
  constructor
  · rintro ⟨r, rfl⟩
    cases r <;> decide
  · have assigned : ∀ k ≤ 0x1D, k ≤ 0x09 ∨ 0x10 ≤ k → ∃ r ∈ allRegs, regNumber r = k := by decide
    intro hn
    obtain ⟨r, -, hr⟩ := assigned n (by omega) (by omega)
    exact ⟨r, hr⟩

theorem mem_observation {s : State} {n : Nat} {v : Word} : (n, v) ∈ observation s ↔ ∃ r, regNumber r = n ∧ readReg s r = v := by
  simp [observation, mem_allRegs]

/-- Settles O14: the numbers, the lookup and the observation, one lemma each. -/
theorem observationHoldsTheWholeRegisterMap : Obligations.ObservationHoldsTheWholeRegisterMap := by
  refine ⟨fun n => ?_, fun n r => regOfNumber_eq_some, fun s n v => mem_observation⟩
  simp only [regOfNumber_eq_some, exists_regNumber]

@[simp] theorem readReg_popAccess (rest : List HostAccess) (s : State) (r : Reg) :
    readReg (popAccess rest s) r = readReg s r := by
  cases r <;> rfl

/-- A register read answers the register's value and changes nothing else (20_memory.md R31). -/
theorem step_read {s : State} {rest : List HostAccess} {r : Reg} (h : s.host = .read (regNumber r) :: rest) :
    step s = .next { s with host := rest, readData := readReg s r } := by
  simp only [step, stepAccess, h, perform, portRead, regOfNumber_eq_some.mpr rfl, readReg_popAccess]
  rfl

theorem step_reset {s : State} {rest : List HostAccess} (h : s.host = .reset :: rest) :
    step s = .next (resetBlock (popAccess rest s)) := by
  simp only [step, stepAccess, h, perform]

/-- A field register shows the slice HDR_RAW[hi:lo] of a valid header (42_header_model.md R70). -/
theorem fieldReg_eq (s : State) {hi lo : Nat} (h : lo ≤ hi) :
    fieldReg s hi lo = if s.hdrValid then (s.hdrRaw.extractLsb' lo (hi + 1 - lo)).setWidth 64 else 0 := by
  rw [fieldReg, hdrField_eq _ _ _ h, BitVec.ofNat_toNat]

/-- Settles O12: the register of each number, and for the field registers the slice it shows. -/
theorem portReadsReturnTheRegisters : Obligations.PortReadsReturnTheRegisters := by
  intro s n rest h
  have reads (r : Reg) (hn : n = regNumber r) : step s = .next { s with host := rest, readData := readReg s r } :=
    step_read (hn ▸ h)
  have shows (r : Reg) (hi lo : Nat) (hlo : lo ≤ hi) (hr : readReg s r = fieldReg s hi lo) (hn : n = regNumber r) :
      step s = .next { s with
        host := rest
        readData := if s.hdrValid then (s.hdrRaw.extractLsb' lo (hi + 1 - lo)).setWidth 64 else 0 } := by
    rw [reads r hn, hr, fieldReg_eq s hlo]
  exact ⟨reads .cmd, reads .arg0, reads .arg1, reads .status, reads .cursor, reads .bufLen, reads .hdrRaw, reads .bitrateKbps,
    reads .samplingRateHz, reads .bextResult,
    shows .fSync 31 21 (by decide) rfl, shows .fVersionLow 20 20 (by decide) rfl, shows .fVersionSel 19 19 (by decide) rfl,
    shows .fLayer 18 17 (by decide) rfl, shows .fProtection 16 16 (by decide) rfl, shows .fBitrateIndex 15 12 (by decide) rfl,
    shows .fSrateIndex 11 10 (by decide) rfl, shows .fPadding 9 9 (by decide) rfl, shows .fPrivate 8 8 (by decide) rfl,
    shows .fChannelMode 7 6 (by decide) rfl, shows .fModeExt 5 4 (by decide) rfl, shows .fCopyright 3 3 (by decide) rfl,
    shows .fOriginal 2 2 (by decide) rfl, shows .fEmphasis 1 0 (by decide) rfl⟩

/-- Settles O13: each field is one part of the packing, cut off from the left and from the right. -/
theorem statusFieldsStandWhereTheTableSays : Obligations.StatusFieldsStandWhereTheTableSays := by
  intro s
  unfold statusWord
  refine ⟨BitVec.extractLsb'_append_eq_right, ?reason, ?valid, ?attached, ?fault, ?reserved, ?cause, ?high⟩
  case reason =>
    rw [BitVec.extractLsb'_append_eq_of_le (by decide)]
    exact BitVec.extractLsb'_append_eq_right
  case valid | attached | fault | reserved =>
    simp only [BitVec.getLsbD_append]
    simp
  case cause =>
    iterate 6 rw [BitVec.extractLsb'_append_eq_of_le (by decide)]
    exact BitVec.extractLsb'_append_eq_right
  case high =>
    iterate 7 rw [BitVec.extractLsb'_append_eq_of_le (by decide)]
    exact BitVec.extractLsb'_eq_self

/-- Settles O17: each item stands in the definition of `State.reset`. -/
theorem resetStateHasTheListedValues : Obligations.ResetStateHasTheListedValues :=
  ⟨rfl, rfl, rfl, rfl, rfl, rfl, rfl, rfl, rfl, rfl, rfl, rfl⟩

/-- Settles O18: the next state is `resetBlock`, which keeps the parameters and the buffer memory. -/
theorem resetEventClearsTheBlock : Obligations.ResetEventClearsTheBlock := by
  intro s rest h
  exact ⟨_, step_reset h, by simp⟩

/-! What a step can do to the block, by kinds of access: a reset, a command, a reserved command word, or nothing but ARG0, ARG1 and
what is the host's own. -/

theorem step_kinds {s t : State} (h : step s = .next t) :
    (∃ rest, AssertsReset s ∧ t = resetBlock (popAccess rest s)) ∨
      (∃ i rest, Issues s i ∧ s.fault = false ∧ exec i (popAccess rest s) = .next t) ∨
      (∃ rest, s.fault = false ∧ t = raiseFault .illegalCommand (popAccess rest s)) ∨
      t = { s with
            arg0 := t.arg0, arg1 := t.arg1, mem := t.mem, unstable := t.unstable, host := t.host, readData := t.readData } := by
  rcases step_cases h with ⟨_, rfl⟩ | ⟨v, rest, hhost, hissue⟩ | ⟨_, _, _, rfl⟩ | ⟨_, _, _, rfl⟩ | ⟨_, _, _, _, _, rfl⟩ |
    ⟨_, _, _, rfl⟩ | ⟨_, _, _, _, _, rfl⟩ | ⟨rest, hhost, rfl⟩
  on_goal 8 => exact .inl ⟨rest, ⟨rest, hhost⟩, rfl⟩
  on_goal 2 =>
    rcases issue_cases hissue with ⟨_, rfl⟩ | ⟨hfault, _, rfl⟩ | ⟨hfault, i, hdecode, hexec⟩
    · exact .inr (.inr (.inr rfl))
    · exact .inr (.inr (.inl ⟨rest, hfault, rfl⟩))
    · exact .inr (.inl ⟨i, rest, ⟨v, rest, hhost, hfault, hdecode⟩, hfault, hexec⟩)
  all_goals exact .inr (.inr (.inr rfl))

/-- Settles O20: a faulted block runs no command and raises no fault, so a step that is no reset leaves the block's registers. -/
theorem faultIsStickyUntilReset : Obligations.FaultIsStickyUntilReset := by
  intro s t hfault h hreset
  rcases step_kinds h with ⟨_, hasserts, _⟩ | ⟨_, _, _, hrunning, _⟩ | ⟨_, hrunning, _⟩ | hkept
  · exact absurd hasserts hreset
  · simp [hfault] at hrunning
  · simp [hfault] at hrunning
  · rw [hkept]
    simp [hfault]

/-- Settles O45: the frame of the commands. -/
theorem onlyAttachAndResetWriteTheView : Obligations.OnlyAttachAndResetWriteTheView := by
  intro s t h hreset hattach
  rcases step_kinds h with ⟨_, hasserts, _⟩ | ⟨i, _, hissues, _, hexec⟩ | ⟨_, _, rfl⟩ | hkept
  · exact absurd hasserts hreset
  · have hi : i ≠ .attach := fun e => hattach (e ▸ hissues)
    obtain ⟨-, -, -, -, -, -, -, hview, -, hcursor, -⟩ := commandsLeaveTheRestUnchanged _ _ _ hexec
    obtain ⟨hattached, hlen, -⟩ := hview hi
    exact ⟨hattached, hlen, fun hnext => hcursor hi fun e => hnext (e ▸ hissues)⟩
  · simp
  · rw [hkept]
    simp

/-- NEXT_FRAME leaves CURSOR where it is or moves it on (43_synchronizer.md R78, R80). -/
theorem exec_nextFrame_cursor {s t : State} (h : exec .nextFrame s = .next t) : s.cursor.toNat ≤ t.cursor.toNat := by
  obtain ⟨hscan, hscan'⟩ := syncScan_cursor s
  have moved (c : Nat) (hle : s.cursor.toNat ≤ c) (hin : c = s.cursor.toNat ∨ c ≤ s.bufLen.toNat) :
      s.cursor.toNat ≤ (BitVec.ofNat 64 c).toNat := by
    have := s.cursor.isLt
    have := s.bufLen.isLt
    rw [BitVec.toNat_ofNat]
    omega
  rcases execNextFrame_cases h with ⟨_, rfl⟩ | ⟨_, _, rfl⟩ | ⟨_, _, _, ⟨_, _, _, rfl⟩ | ⟨_, _, rfl⟩ | ⟨_, c', hcrc, rfl⟩⟩
  · simp
  · exact moved _ hscan hscan'
  · exact moved _ hscan hscan'
  · exact moved _ hscan hscan'
  · have := crcSkip_le hcrc
    exact moved c' (by omega) (by omega)

/-- Settles O44: NEXT_FRAME moves on, every other step leaves CURSOR. -/
theorem cursorNeverDecreases : Obligations.CursorNeverDecreases := by
  intro s t h hreset hattach
  rcases step_kinds h with ⟨_, hasserts, _⟩ | ⟨i, rest, hissues, _, hexec⟩ | ⟨_, _, rfl⟩ | hkept
  · exact absurd hasserts hreset
  · have hi : i ≠ .attach := fun e => hattach (e ▸ hissues)
    by_cases hnext : i = .nextFrame
    · exact exec_nextFrame_cursor (s := popAccess rest s) (hnext ▸ hexec)
    · obtain ⟨-, -, -, -, -, -, -, -, -, hcursor, -⟩ := commandsLeaveTheRestUnchanged _ _ _ hexec
      rw [hcursor hi hnext]
      simp
  · simp
  · rw [hkept]

/-! What each command answers when it does not fault. -/

/-- An accepted header is shown (10_state.md R18, R20 (a)). -/
def HeaderFound (cfg : Config) (t : State) : Prop :=
  t.result = 1 ∧ t.reason = 0 ∧ t.hdrValid = true ∧ headerCheck cfg t.hdrRaw = .accept

/-- The end of the stream (R18, R20 (b)). -/
def NoMoreData (t : State) : Prop :=
  t.result = 2 ∧ t.reason = 0 ∧ t.hdrValid = false ∧ t.hdrRaw = 0

/-- A rejected header: one of the two errors and a check that belongs to it (R18, R19). -/
def HeaderRejected (t : State) : Prop :=
  ((t.result = 3 ∧ (t.reason = 1 ∨ t.reason = 2)) ∨
      (t.result = 4 ∧ (t.reason = 3 ∨ t.reason = 4 ∨ t.reason = 5 ∨ t.reason = 6))) ∧
    t.hdrValid = false ∧ t.hdrRaw = 0

theorem headerRejected_of_reject {cfg : Config} {raw : HdrWord} {kind : Result} {why : Reason}
    (h : headerCheck cfg raw = .reject kind why) (s : State) : HeaderRejected (finish kind why (clearHeader s)) := by
  refine ⟨?_, rfl, rfl⟩
  rcases headerCheck_reject h with ⟨rfl, rfl | rfl⟩ | ⟨rfl, rfl | rfl | rfl | rfl⟩ <;> simp [resultCode, reasonCode]

/-- The result of a command that does not fault (10_state.md R18, 60_exceptions.md R87). -/
def CommandResult (cfg : Config) : Instr → State → Prop
  | .attach, t => t.result = 6 ∧ t.hdrValid = false ∧ t.hdrRaw = 0
  | .nextFrame, t => HeaderFound cfg t ∨ NoMoreData t ∨ HeaderRejected t
  | .decodeHeader, t => HeaderFound cfg t ∨ HeaderRejected t
  | .bitRange _ _ _, t => t.result = 5

/-- An attached NEXT_FRAME does not fault (60_exceptions.md R86). -/
theorem exec_nextFrame_result {s t : State} (h : exec .nextFrame s = .next t) (hattached : s.attached = true) :
    t.fault = s.fault ∧ t.faultCause = s.faultCause ∧ CommandResult s.cfg .nextFrame t := by
  rcases execNextFrame_cases h with ⟨hnone, _⟩ | ⟨_, _, rfl⟩ | ⟨_, _, _, ⟨_, _, hrej, rfl⟩ | ⟨_, _, rfl⟩ | ⟨hok, _, _, rfl⟩⟩
  · simp [hattached] at hnone
  · exact ⟨rfl, rfl, .inr (.inl ⟨rfl, rfl, rfl, rfl⟩)⟩
  · exact ⟨rfl, rfl, .inr (.inr (headerRejected_of_reject hrej _))⟩
  · exact ⟨rfl, rfl, .inr (.inl ⟨rfl, rfl, rfl, rfl⟩)⟩
  · exact ⟨rfl, rfl, .inl ⟨rfl, rfl, rfl, hok⟩⟩

/-- A command raises a fault, or it leaves FAULT and FAULT_CAUSE and gives one of its own results. -/
theorem exec_result {i : Instr} {s t : State} (h : exec i s = .next t) :
    (∃ cause, t = raiseFault cause s) ∨ (t.fault = s.fault ∧ t.faultCause = s.faultCause ∧ CommandResult s.cfg i t) := by
  cases i with
  | attach =>
    rcases execAttach_cases h with ⟨_, rfl⟩ | ⟨_, _, rfl⟩
    · exact .inl ⟨_, rfl⟩
    · exact .inr ⟨rfl, rfl, rfl, rfl, rfl⟩
  | nextFrame =>
    cases hattached : s.attached with
    | false =>
      rcases execNextFrame_cases h with ⟨_, rfl⟩ | ⟨hyes, _⟩ | ⟨hyes, _⟩
      · exact .inl ⟨_, rfl⟩
      · simp [hattached] at hyes
      · simp [hattached] at hyes
    | true => exact .inr (exec_nextFrame_result h hattached)
  | decodeHeader =>
    rcases execDecodeHeader_cases h with ⟨_, rfl⟩ | ⟨_, hok, rfl⟩ | ⟨_, _, _, hrej, rfl⟩
    · exact .inl ⟨_, rfl⟩
    · exact .inr ⟨rfl, rfl, .inl ⟨rfl, rfl, rfl, hok⟩⟩
    · exact .inr ⟨rfl, rfl, .inr (headerRejected_of_reject hrej _)⟩
  | bitRange w start stop =>
    rcases execBitRange_cases h with ⟨_, cause, rfl⟩ | ⟨_, _, _, rfl⟩
    · exact .inl ⟨cause, rfl⟩
    · exact .inr ⟨rfl, rfl, rfl⟩

/-- Settles O47: each result is read off `exec_result`. -/
theorem resultsBelongToTheirCommands : Obligations.ResultsBelongToTheirCommands := by
  intro i s t _ h hfault
  rcases exec_result h with ⟨cause, rfl⟩ | ⟨-, -, hresult⟩
  · simp at hfault
  · refine ⟨?_, ?_, ?_, ?_⟩
    · rintro rfl
      exact hresult.1
    · rintro rfl
      rcases hresult with ⟨h1, _⟩ | ⟨h2, _⟩ | ⟨⟨h3, _⟩ | ⟨h4, _⟩, _⟩
      · exact .inl h1
      · exact .inr (.inl h2)
      · exact .inr (.inr (.inl h3))
      · exact .inr (.inr (.inr h4))
    · rintro rfl
      rcases hresult with ⟨h1, _⟩ | ⟨⟨h3, _⟩ | ⟨h4, _⟩, _⟩
      · exact .inl h1
      · exact .inr (.inl h3)
      · exact .inr (.inr h4)
    · rintro w start stop rfl
      exact hresult

/-! Who changes the header registers, BEXT_RESULT and the fault registers (10_state.md R20, R23, R24), over all steps. -/

theorem step_header_change {s t : State} (h : step s = .next t) (hne : t.hdrRaw ≠ s.hdrRaw ∨ t.hdrValid ≠ s.hdrValid) :
    (AssertsReset s ∧ t.hdrRaw = 0 ∧ t.hdrValid = false) ∨
      (Issues s .attach ∧ t.fault = false ∧ t.hdrRaw = 0 ∧ t.hdrValid = false) ∨
      ((Issues s .nextFrame ∨ Issues s .decodeHeader) ∧ t.fault = false ∧
        (HeaderFound s.cfg t ∨ NoMoreData t ∨ HeaderRejected t)) := by
  rcases step_kinds h with ⟨_, hasserts, rfl⟩ | ⟨i, rest, hissues, hrunning, hexec⟩ | ⟨_, _, rfl⟩ | hkept
  · exact .inl ⟨hasserts, rfl, rfl⟩
  · rcases exec_result hexec with ⟨cause, rfl⟩ | ⟨hfault, -, hresult⟩
    · simp at hne
    have hfault : t.fault = false := hfault.trans hrunning
    cases i with
    | attach =>
      obtain ⟨-, hvalid, hraw⟩ := hresult
      exact .inr (.inl ⟨hissues, hfault, hraw, hvalid⟩)
    | nextFrame => exact .inr (.inr ⟨.inl hissues, hfault, hresult⟩)
    | decodeHeader => exact .inr (.inr ⟨.inr hissues, hfault, hresult.imp_right .inr⟩)
    | bitRange w start stop =>
      rw [exec_bitRange_writes hexec] at hne
      simp at hne
  · simp at hne
  · rw [hkept] at hne
    simp at hne

theorem step_bextResult_change {s t : State} (h : step s = .next t) (hne : t.bextResult ≠ s.bextResult) :
    (AssertsReset s ∧ t.bextResult = 0) ∨
      ((∃ w start stop, Issues s (.bitRange w start stop)) ∧ t.fault = false ∧ t.result = 5) := by
  rcases step_kinds h with ⟨_, hasserts, rfl⟩ | ⟨i, rest, hissues, hrunning, hexec⟩ | ⟨_, _, rfl⟩ | hkept
  · exact .inl ⟨hasserts, rfl⟩
  · obtain ⟨-, -, -, -, -, -, -, -, -, -, hbext, -⟩ := commandsLeaveTheRestUnchanged _ _ _ hexec
    obtain ⟨w, start, stop, rfl⟩ : ∃ w start stop, i = .bitRange w start stop := by
      by_contra hother
      push Not at hother
      exact hne (hbext hother)
    rcases exec_result hexec with ⟨cause, rfl⟩ | ⟨hfault, -, hresult⟩
    · simp at hne
    · exact .inr ⟨⟨w, start, stop, hissues⟩, hfault.trans hrunning, hresult⟩
  · simp at hne
  · rw [hkept] at hne
    simp at hne

theorem step_fault_change {s t : State} (h : step s = .next t) (hne : t.fault ≠ s.fault ∨ t.faultCause ≠ s.faultCause) :
    (AssertsReset s ∧ t.fault = false ∧ t.faultCause = 0) ∨ (s.fault = false ∧ t.fault = true) := by
  rcases step_kinds h with ⟨_, hasserts, rfl⟩ | ⟨i, rest, hissues, hrunning, hexec⟩ | ⟨_, hrunning, rfl⟩ | hkept
  · exact .inl ⟨hasserts, rfl, rfl⟩
  · rcases exec_result hexec with ⟨cause, rfl⟩ | ⟨hfault, hcause, -⟩
    · exact .inr ⟨hrunning, rfl⟩
    · simp [hfault, hcause] at hne
  · exact .inr ⟨hrunning, rfl⟩
  · rw [hkept] at hne
    simp at hne

/-- Settles O46: the three changes, one lemma each. -/
theorem resultsAndFaultChangeOnlyAsListed : Obligations.ResultsAndFaultChangeOnlyAsListed := by
  intro s t h
  refine ⟨fun hne => ?_, step_bextResult_change h, step_fault_change h⟩
  refine (step_header_change h hne).imp_right (Or.imp_right ?_)
  rintro ⟨hissues, hfault, ⟨h1, -, hvalid, hok⟩ | ⟨h2, -, hvalid, hraw⟩ | ⟨hcodes, hvalid, hraw⟩⟩
  · exact ⟨hissues, hfault, .inl ⟨h1, hvalid, hok⟩⟩
  · exact ⟨hissues, hfault, .inr ⟨.inl h2, hraw, hvalid⟩⟩
  · exact ⟨hissues, hfault, .inr ⟨.inr (hcodes.imp And.left And.left), hraw, hvalid⟩⟩

/-! What each command answers, an equation per case: the other direction of the lemmas `execAttach_cases` and so on. -/

theorem exec_attach_of_range {s : State} (h : 2 ^ s.cfg.addrW ≤ s.arg0.toNat ∨ s.arg0.toNat < s.arg1.toNat) :
    exec .attach s = .next (raiseFault .attachRange s) := by
  by_cases hlen : 2 ^ s.cfg.addrW ≤ s.arg0.toNat
  · exact if_pos hlen
  · exact (if_neg hlen).trans (if_pos (h.resolve_left hlen))

theorem exec_attach_of_ok {s : State} (hlen : s.arg0.toNat < 2 ^ s.cfg.addrW) (hstart : s.arg1.toNat ≤ s.arg0.toNat) :
    exec .attach s = .next (finish .attachedOk .none (clearHeader (attachView s.arg0 s.arg1 s))) :=
  (if_neg hlen.not_ge).trans (if_neg hstart.not_gt)

theorem exec_decodeHeader_of_width {s : State} (hwidth : 2 ^ 32 ≤ s.arg0.toNat) :
    exec .decodeHeader s = .next (raiseFault .operandWidth s) :=
  if_pos hwidth

theorem exec_decodeHeader_of_accept {s : State} (hwidth : s.arg0.toNat < 2 ^ 32)
    (hok : headerCheck s.cfg (s.arg0.extractLsb' 0 32) = .accept) :
    exec .decodeHeader s = .next (finish .header .none (setHeader (s.arg0.extractLsb' 0 32) s)) := by
  simp only [exec, execDecodeHeader, if_neg hwidth.not_ge, hok]

theorem exec_decodeHeader_of_reject {s : State} {kind : Result} {why : Reason} (hwidth : s.arg0.toNat < 2 ^ 32)
    (hrej : headerCheck s.cfg (s.arg0.extractLsb' 0 32) = .reject kind why) :
    exec .decodeHeader s = .next (finish kind why (clearHeader s)) := by
  simp only [exec, execDecodeHeader, if_neg hwidth.not_ge, hrej]

section BitRange
variable {w : Width} {start stop : Bound} {s : State}

theorem exec_bitRange_of_width (hwidth : 2 ^ widthBits w ≤ s.arg0.toNat) :
    exec (.bitRange w start stop) s = .next (raiseFault .operandWidth s) :=
  if_pos hwidth

theorem exec_bitRange_of_inverted (hwidth : s.arg0.toNat < 2 ^ widthBits w) (hspan : spanHigh (widthBits w) stop < spanLow start) :
    exec (.bitRange w start stop) s = .next (raiseFault .bextInverted s) :=
  (if_neg hwidth.not_ge).trans (if_pos hspan)

theorem exec_bitRange_of_outOfRange (hwidth : s.arg0.toNat < 2 ^ widthBits w)
    (hspan : spanLow start ≤ spanHigh (widthBits w) stop) (hrange : widthBits w < spanHigh (widthBits w) stop) :
    exec (.bitRange w start stop) s = .next (raiseFault .bextOutOfRange s) :=
  (if_neg hwidth.not_ge).trans ((if_neg hspan.not_gt).trans (if_pos hrange))

theorem exec_bitRange_of_ok (hwidth : s.arg0.toNat < 2 ^ widthBits w) (hspan : spanLow start ≤ spanHigh (widthBits w) stop)
    (hrange : spanHigh (widthBits w) stop ≤ widthBits w) :
    exec (.bitRange w start stop) s = .next (finish .bextDone .none
      { s with bextResult := BitVec.ofNat 64 (bitRange s.arg0.toNat (spanLow start) (spanHigh (widthBits w) stop)) }) :=
  (if_neg hwidth.not_ge).trans ((if_neg hspan.not_gt).trans (if_neg hrange.not_gt))

end BitRange

theorem exec_nextFrame_of_unattached {s : State} (h : s.attached = false) :
    exec .nextFrame s = .next (raiseFault .notAttached s) :=
  if_pos h

section NextFrame
variable {s : State} {cand : HdrWord} {c d : Nat} (hattached : s.attached = true)
include hattached

theorem exec_nextFrame_of_none (hscan : syncScan s = ⟨none, c, d⟩) :
    exec .nextFrame s = .next (finish .noMoreData .none (clearHeader (moveCursor c d s))) := by
  simp [exec, execNextFrame, hattached, hscan]

theorem exec_nextFrame_of_found (hscan : syncScan s = ⟨some cand, c, d⟩) :
    exec .nextFrame s = .next (acceptCandidate cand c d s) := by
  simp [exec, execNextFrame, hattached, hscan]

theorem exec_nextFrame_of_reject {kind : Result} {why : Reason} (hscan : syncScan s = ⟨some cand, c, d⟩)
    (hrej : headerCheck s.cfg cand = .reject kind why) :
    exec .nextFrame s = .next (finish kind why (clearHeader (moveCursor c d s))) := by
  simp only [exec_nextFrame_of_found hattached hscan, acceptCandidate, hrej]

theorem exec_nextFrame_of_noCrc (hscan : syncScan s = ⟨some cand, c, d⟩) (hok : headerCheck s.cfg cand = .accept)
    (hcrc : crcSkip s cand c = none) :
    exec .nextFrame s = .next (finish .noMoreData .none (clearHeader (moveCursor c d s))) := by
  simp only [exec_nextFrame_of_found hattached hscan, acceptCandidate, hok, hcrc]

theorem exec_nextFrame_of_accept {c' : Nat} (hscan : syncScan s = ⟨some cand, c, d⟩) (hok : headerCheck s.cfg cand = .accept)
    (hcrc : crcSkip s cand c = some c') :
    exec .nextFrame s = .next (finish .header .none (setHeader cand (moveCursor c' d s))) := by
  simp only [exec_nextFrame_of_found hattached hscan, acceptCandidate, hok, hcrc]

theorem exec_nextFrame_next : ∃ t, exec .nextFrame s = .next t := by
  rcases hscan : syncScan s with ⟨_ | cand, c, d⟩
  · exact ⟨_, exec_nextFrame_of_none hattached hscan⟩
  · exact ⟨_, exec_nextFrame_of_found hattached hscan⟩

end NextFrame

/-- Settles O37: an attached NEXT_FRAME answers, and what it answers is one of its results. -/
theorem nextFrameCompletes : Obligations.NextFrameCompletes := by
  intro s hrunning hattached
  obtain ⟨t, h⟩ := exec_nextFrame_next hattached
  obtain ⟨hfault, -, hresult⟩ := exec_nextFrame_result h hattached
  refine ⟨t, h, hfault.trans hrunning, ?_⟩
  rcases hresult with ⟨h1, h0, hvalid, -⟩ | ⟨h2, h0, hvalid, -⟩ | ⟨⟨h3, hwhy⟩ | ⟨h4, hwhy⟩, hvalid, -⟩
  · exact .inl ⟨h1, h0, hvalid⟩
  · exact .inr (.inl ⟨h2, h0, hvalid⟩)
  · exact .inr (.inr (.inl ⟨h3, hwhy, hvalid⟩))
  · exact .inr (.inr (.inr ⟨h4, hwhy, hvalid⟩))

/-! The result registers are no inputs (10_state.md R26): each command runs the same from a state in which they hold other values. -/

/-- Values for the five result registers. -/
structure ResultRegs where
  result : BitVec 4
  reason : BitVec 4
  hdrValid : Bool
  hdrRaw : HdrWord
  bextResult : Word

/-- The state with these values in the result registers. -/
def ResultRegs.put (r : ResultRegs) (s : State) : State :=
  { s with result := r.result, reason := r.reason, hdrValid := r.hdrValid, hdrRaw := r.hdrRaw, bextResult := r.bextResult }

/-- Of the next states `t` and `t'` of one command, `t'` from the state with `r` in the result registers: outside these registers they
are the same, the command's own results are the same, and those it does not write are those of `r`. -/
def SameResults (i : Instr) (r : ResultRegs) (t t' : State) : Prop :=
  { t' with result := t.result, reason := t.reason, hdrValid := t.hdrValid, hdrRaw := t.hdrRaw, bextResult := t.bextResult } = t ∧
    (t.fault = false → t'.result = t.result ∧ t'.reason = t.reason ∧
      ((∀ w start stop, i ≠ .bitRange w start stop) →
        t'.hdrValid = t.hdrValid ∧ t'.hdrRaw = t.hdrRaw ∧ t'.bextResult = r.bextResult) ∧
      (∀ w start stop, i = .bitRange w start stop →
        t'.bextResult = t.bextResult ∧ t'.hdrValid = r.hdrValid ∧ t'.hdrRaw = r.hdrRaw)) ∧
    (t.fault = true → t'.result = r.result ∧ t'.reason = r.reason ∧ t'.hdrValid = r.hdrValid ∧ t'.hdrRaw = r.hdrRaw ∧
      t'.bextResult = r.bextResult)

section SameResults
variable {i : Instr} {s : State} {r : ResultRegs}

theorem sameResults_raiseFault {cause : FaultCause} :
    SameResults i r (raiseFault cause s) (raiseFault cause (r.put s)) :=
  ⟨rfl, by simp, fun _ => ⟨rfl, rfl, rfl, rfl, rfl⟩⟩

theorem sameResults_clearHeader {res : Result} {why : Reason} (hfault : s.fault = false)
    (hi : ∀ w start stop, i ≠ .bitRange w start stop) :
    SameResults i r (finish res why (clearHeader s)) (finish res why (clearHeader (r.put s))) :=
  ⟨rfl, fun _ => ⟨rfl, rfl, fun _ => ⟨rfl, rfl, rfl⟩, fun w start stop e => absurd e (hi w start stop)⟩, by simp [hfault]⟩

theorem sameResults_setHeader {res : Result} {why : Reason} {raw : HdrWord} (hfault : s.fault = false)
    (hi : ∀ w start stop, i ≠ .bitRange w start stop) :
    SameResults i r (finish res why (setHeader raw s)) (finish res why (setHeader raw (r.put s))) :=
  ⟨rfl, fun _ => ⟨rfl, rfl, fun _ => ⟨rfl, rfl, rfl⟩, fun w start stop e => absurd e (hi w start stop)⟩, by simp [hfault]⟩

theorem sameResults_bextResult {w : Width} {start stop : Bound} {res : Result} {why : Reason} {v : Word} (hfault : s.fault = false) :
    SameResults (.bitRange w start stop) r (finish res why { s with bextResult := v })
      (finish res why { r.put s with bextResult := v }) :=
  ⟨rfl, fun _ => ⟨rfl, rfl, fun hi => absurd rfl (hi w start stop), fun _ _ _ _ => ⟨rfl, rfl, rfl⟩⟩, by simp [hfault]⟩

end SameResults

theorem exec_attach_put {s t : State} (r : ResultRegs) (hfault : s.fault = false) (h : exec .attach s = .next t) :
    ∃ t', exec .attach (r.put s) = .next t' ∧ SameResults .attach r t t' := by
  rcases execAttach_cases h with ⟨hrange, rfl⟩ | ⟨hlen, hstart, rfl⟩
  · exact ⟨_, exec_attach_of_range (s := r.put s) hrange, sameResults_raiseFault⟩
  · exact ⟨_, exec_attach_of_ok (s := r.put s) hlen hstart, sameResults_clearHeader (s := attachView _ _ s) hfault nofun⟩

theorem exec_decodeHeader_put {s t : State} (r : ResultRegs) (hfault : s.fault = false) (h : exec .decodeHeader s = .next t) :
    ∃ t', exec .decodeHeader (r.put s) = .next t' ∧ SameResults .decodeHeader r t t' := by
  rcases execDecodeHeader_cases h with ⟨hwidth, rfl⟩ | ⟨hwidth, hok, rfl⟩ | ⟨hwidth, _, _, hrej, rfl⟩
  · exact ⟨_, exec_decodeHeader_of_width (s := r.put s) hwidth, sameResults_raiseFault⟩
  · exact ⟨_, exec_decodeHeader_of_accept (s := r.put s) hwidth hok, sameResults_setHeader hfault nofun⟩
  · exact ⟨_, exec_decodeHeader_of_reject (s := r.put s) hwidth hrej, sameResults_clearHeader hfault nofun⟩

theorem syncScan_put (r : ResultRegs) (s : State) : syncScan (r.put s) = syncScan s :=
  syncScan_congr rfl rfl rfl rfl fun _ _ _ => rfl

theorem exec_nextFrame_put {s t : State} (r : ResultRegs) (hfault : s.fault = false) (h : exec .nextFrame s = .next t) :
    ∃ t', exec .nextFrame (r.put s) = .next t' ∧ SameResults .nextFrame r t t' := by
  have hput (found : Option HdrWord) (hfound : (syncScan s).found = found) :
      syncScan (r.put s) = ⟨found, (syncScan s).cursor, (syncScan s).draws⟩ := by
    rw [syncScan_put, ← hfound]
  rcases execNextFrame_cases h with ⟨hunattached, rfl⟩ | ⟨hattached, hfound, rfl⟩ |
    ⟨hattached, cand, hfound, ⟨_, _, hrej, rfl⟩ | ⟨hok, hcrc, rfl⟩ | ⟨hok, c, hcrc, rfl⟩⟩
  · exact ⟨_, exec_nextFrame_of_unattached (s := r.put s) hunattached, sameResults_raiseFault⟩
  · exact ⟨_, exec_nextFrame_of_none (s := r.put s) hattached (hput _ hfound),
      sameResults_clearHeader (s := moveCursor _ _ s) hfault nofun⟩
  · exact ⟨_, exec_nextFrame_of_reject (s := r.put s) hattached (hput _ hfound) hrej,
      sameResults_clearHeader (s := moveCursor _ _ s) hfault nofun⟩
  · exact ⟨_, exec_nextFrame_of_noCrc (s := r.put s) hattached (hput _ hfound) hok hcrc,
      sameResults_clearHeader (s := moveCursor _ _ s) hfault nofun⟩
  · exact ⟨_, exec_nextFrame_of_accept (s := r.put s) hattached (hput _ hfound) hok hcrc,
      sameResults_setHeader (s := moveCursor _ _ s) hfault nofun⟩

/-- Each way BIT_RANGE can go depends on ARG0 and the command word only. -/
theorem exec_bitRange_put {w : Width} {start stop : Bound} {s t : State} (r : ResultRegs) (hfault : s.fault = false)
    (h : exec (.bitRange w start stop) s = .next t) :
    ∃ t', exec (.bitRange w start stop) (r.put s) = .next t' ∧ SameResults (.bitRange w start stop) r t t' := by
  have answer {u u' : State} (hs : exec (.bitRange w start stop) s = .next u)
      (hput : exec (.bitRange w start stop) (r.put s) = .next u') (hsame : SameResults (.bitRange w start stop) r u u') :
      ∃ t', exec (.bitRange w start stop) (r.put s) = .next t' ∧ SameResults (.bitRange w start stop) r t t' := by
    obtain rfl : u = t := Host.Outcome.next.inj (hs.symm.trans h)
    exact ⟨u', hput, hsame⟩
  rcases lt_or_ge s.arg0.toNat (2 ^ widthBits w) with hwidth | hwidth
  · rcases lt_or_ge (spanHigh (widthBits w) stop) (spanLow start) with hspan | hspan
    · exact answer (exec_bitRange_of_inverted hwidth hspan) (exec_bitRange_of_inverted (s := r.put s) hwidth hspan)
        sameResults_raiseFault
    · rcases lt_or_ge (widthBits w) (spanHigh (widthBits w) stop) with hrange | hrange
      · exact answer (exec_bitRange_of_outOfRange hwidth hspan hrange)
          (exec_bitRange_of_outOfRange (s := r.put s) hwidth hspan hrange) sameResults_raiseFault
      · exact answer (exec_bitRange_of_ok hwidth hspan hrange) (exec_bitRange_of_ok (s := r.put s) hwidth hspan hrange)
          (sameResults_bextResult hfault)
  · exact answer (exec_bitRange_of_width hwidth) (exec_bitRange_of_width (s := r.put s) hwidth) sameResults_raiseFault

/-- Settles O48: command by command. -/
theorem resultRegistersAreNoInputs : Obligations.ResultRegistersAreNoInputs := by
  intro i s t res why valid raw bext hfault h
  let r : ResultRegs := ⟨res, why, valid, raw, bext⟩
  cases i with
  | attach => exact exec_attach_put r hfault h
  | nextFrame => exact exec_nextFrame_put r hfault h
  | decodeHeader => exact exec_decodeHeader_put r hfault h
  | bitRange w start stop => exact exec_bitRange_put r hfault h

/-! The scan in terms of the stream (44_facade.md R83): what each read answers, and where the scan ends. -/

/-- The draws made when a NEXT_FRAME issued in `s` has read the bytes from CURSOR up to index `i` (20_memory.md R37). -/
def drawsBefore (s : State) (i : Nat) : Nat :=
  s.draws + ((List.range' s.cursor.toNat (i - s.cursor.toNat)).filter (· ∈ s.unstable)).length

@[simp] theorem drawsBefore_cursor (s : State) : drawsBefore s s.cursor.toNat = s.draws := by
  simp [drawsBefore]

/-- One more byte read is one more draw if the byte is drawn. -/
theorem drawsBefore_succ {s : State} {i : Nat} (h : s.cursor.toNat ≤ i) :
    drawsBefore s (i + 1) = if i ∈ s.unstable then drawsBefore s i + 1 else drawsBefore s i := by
  have hrange : List.range' s.cursor.toNat (i + 1 - s.cursor.toNat) = List.range' s.cursor.toNat (i - s.cursor.toNat) ++ [i] := by
    rw [Nat.sub_add_comm h, List.range'_1_concat, Nat.add_sub_cancel' h]
  simp only [drawsBefore, hrange, List.filter_append, List.length_append]
  split <;> simp [*, Nat.add_assoc]

/-- A read in its turn answers the stream's byte. -/
theorem memRead_stream {s : State} {i : Nat} (h : s.cursor.toNat ≤ i) :
    memRead s (drawsBefore s i) i = (streamByte s i, drawsBefore s (i + 1)) := by
  by_cases hi : i ∈ s.unstable
  · rw [memRead_unstable hi, drawsBefore_succ h, if_pos hi, streamByte, if_pos hi]
    rfl
  · rw [memRead_stable hi, drawsBefore_succ h, if_neg hi, streamByte, if_neg hi]

theorem readHeader_stream (s : State) :
    readHeader s s.draws s.cursor.toNat = (streamWord s s.cursor.toNat, drawsBefore s (s.cursor.toNat + 4)) := by
  have hfirst := memRead_stream (le_refl s.cursor.toNat)
  have hlater (k : Nat) := memRead_stream (Nat.le_add_right s.cursor.toNat k)
  rw [drawsBefore_cursor] at hfirst
  simp only [readHeader, hfirst, hlater, Nat.add_assoc, Nat.reduceAdd]
  rfl

/-- Bit by bit: the low byte is the new one, the byte shifted out is the first of the old word. -/
theorem shiftIn_bigEndian (b0 b1 b2 b3 b4 : Byte) : shiftIn (bigEndian b0 b1 b2 b3) b4 = bigEndian b1 b2 b3 b4 := by
  refine BitVec.eq_of_getLsbD_eq fun i hi => ?_
  simp only [shiftIn, bigEndian, BitVec.getLsbD_or, BitVec.getLsbD_shiftLeft, BitVec.getLsbD_setWidth, BitVec.getLsbD_append]
  by_cases hlow : i < 8
  · simp [hlow, hi]
  · have hb4 : b4.getLsbD i = false := BitVec.getLsbD_of_ge _ _ (by omega)
    have hb1 : i - 8 - 8 - 8 < 8 := by omega
    simp [hlow, hi, hb4, hb1]

/-- The source's form of the predicate tests bits [31:21] alone: bit 20, which the `| 1` sets, is bit 0 of the shifted word. -/
theorem syncWord_iff (w : HdrWord) : syncWord w = true ↔ HasSync w := by
  rw [syncWord, beq_iff_eq, HasSync, show 0xFFF#32 = (BitVec.allOnes 12).setWidth 32 from rfl,
    show 0x7FF#11 = BitVec.allOnes 11 from rfl, BitVec.eq_of_getLsbD_eq_iff, BitVec.eq_of_getLsbD_eq_iff]
  simp only [BitVec.getLsbD_or, BitVec.getLsbD_ushiftRight, BitVec.getLsbD_one, BitVec.getLsbD_setWidth, BitVec.getLsbD_allOnes,
    BitVec.getLsbD_extractLsb']
  have hplace (i : Nat) : 20 + (i + 1) = 21 + i := by omega
  constructor
  · intro h i hi
    simpa [hi, hplace, show i + 1 < 32 by omega, show i + 1 < 12 by omega] using h (i + 1) (by omega)
  · intro h i hi
    rcases i with _ | i
    · simp
    · by_cases hin : i < 11
      · simpa [hi, hin, hplace, show i + 1 < 12 by omega] using h i hin
      · simp [hplace, BitVec.getLsbD_of_ge w (21 + i) (by omega), show ¬ i + 1 < 12 by omega]

/-- Shifting the next byte in moves the candidate one place on (43_synchronizer.md R77). -/
theorem shiftIn_stream (s : State) (m : Nat) : shiftIn (streamWord s m) (streamByte s (m + 4)) = streamWord s (m + 1) :=
  shiftIn_bigEndian _ _ _ _ _

theorem scanLoop_of_sync {s : State} {cand : HdrWord} (h : HasSync cand) (n c d : Nat) :
    scanLoop s n cand c d = ⟨some cand, c, d⟩ := by
  cases n <;> simp only [scanLoop, (syncWord_iff cand).mpr h, if_true]

/-- The loop with its candidate at `m`, no place before `m` having the syncword: it stops at the first place that has it, or finds
none in the buffer. -/
theorem scanLoop_stream {s : State} {n m : Nat} (hm : s.cursor.toNat ≤ m) (hn : m + 4 + n = s.bufLen.toNat)
    (hbefore : ∀ j, s.cursor.toNat ≤ j → j < m → ¬ HasSync (streamWord s j)) :
    (∃ k, FirstSync s k ∧
        scanLoop s n (streamWord s m) (m + 4) (drawsBefore s (m + 4)) = ⟨some (streamWord s k), k + 4, drawsBefore s (k + 4)⟩) ∨
      (NoSync s ∧ (scanLoop s n (streamWord s m) (m + 4) (drawsBefore s (m + 4))).found = none) := by
  by_cases hsync : HasSync (streamWord s m)
  · exact .inl ⟨m, ⟨hm, by omega, hsync, hbefore⟩, scanLoop_of_sync hsync _ _ _⟩
  have hthrough : ∀ j, s.cursor.toNat ≤ j → j < m + 1 → ¬ HasSync (streamWord s j) := by
    intro j hj hlt
    rcases Nat.lt_succ_iff_lt_or_eq.mp hlt with hlt | rfl
    · exact hbefore j hj hlt
    · exact hsync
  have hfail : ¬ syncWord (streamWord s m) = true := mt (syncWord_iff _).mp hsync
  cases n with
  | zero => exact .inr ⟨fun k hk hin => hthrough k hk (by omega), by simp only [scanLoop, if_neg hfail]⟩
  | succ n =>
    simp only [scanLoop, if_neg hfail, memRead_stream (Nat.le_add_right_of_le hm), shiftIn_stream]
    rw [Nat.add_right_comm m 4 1]
    exact scanLoop_stream (m := m + 1) (by omega) (by omega) hthrough

theorem firstSync_unique {s : State} {m k : Nat} (hm : FirstSync s m) (hk : FirstSync s k) : m = k := by
  rcases Nat.lt_trichotomy m k with hlt | heq | hlt
  · exact absurd hm.sync (hk.first m hm.fromCursor hlt)
  · exact heq
  · exact absurd hk.sync (hm.first k hk.fromCursor hlt)

theorem syncScan_of_short {s : State} (hshort : s.bufLen.toNat - s.cursor.toNat < 4) :
    syncScan s = ⟨none, s.cursor.toNat, s.draws⟩ :=
  if_pos hshort

/-- With 4 bytes left the scan ends at the first place with the syncword, or there is none (44_facade.md R83). -/
theorem syncScan_stream {s : State} (h4 : 4 ≤ s.bufLen.toNat - s.cursor.toNat) :
    (∃ k, FirstSync s k ∧ syncScan s = ⟨some (streamWord s k), k + 4, drawsBefore s (k + 4)⟩) ∨
      (NoSync s ∧ (syncScan s).found = none) := by
  simp only [syncScan, if_neg h4.not_gt, readHeader_stream]
  exact scanLoop_stream (le_refl _) (by omega) fun j hj hlt => absurd hj (by omega)

theorem syncScan_of_firstSync {s : State} {m : Nat} (hm : FirstSync s m) :
    syncScan s = ⟨some (streamWord s m), m + 4, drawsBefore s (m + 4)⟩ := by
  have hfrom := hm.fromCursor
  have hin := hm.inBuffer
  rcases syncScan_stream (s := s) (by omega) with ⟨k, hk, hscan⟩ | ⟨hno, _⟩
  · rw [firstSync_unique hm hk, hscan]
  · exact absurd hm.sync (hno m hfrom hin)

theorem syncScan_of_noSync {s : State} (h4 : 4 ≤ s.bufLen.toNat - s.cursor.toNat) (hno : NoSync s) :
    ∃ d, syncScan s = ⟨none, s.bufLen.toNat, d⟩ := by
  rcases syncScan_stream h4 with ⟨k, hk, _⟩ | ⟨_, hfound⟩
  · exact absurd hk.sync (hno k hk.fromCursor hk.inBuffer)
  · rcases syncScan_none hfound with ⟨hshort, _⟩ | ⟨_, hcursor⟩
    · omega
    · exact ⟨(syncScan s).draws, by rw [← hfound, ← hcursor]⟩

/-! The CRC skip in terms of the header's bit 16 (30_encoding.md R48, 43_synchronizer.md R80). -/

theorem hdrProtection_eq_toNat (raw : HdrWord) : hdrProtection raw = (raw.getLsbD 16).toNat := by
  rw [hdrProtection_eq, BitVec.extractLsb'_toNat, Nat.shiftRight_eq_div_pow, BitVec.getLsbD, Nat.toNat_testBit]

section CrcSkip
variable {s : State} {cand : HdrWord} {c : Nat}

theorem crcSkip_of_unprotected (h : cand.getLsbD 16 = true) : crcSkip s cand c = some c := by
  rw [crcSkip, hdrProtection_eq_toNat, h]
  exact if_pos rfl

theorem crcSkip_of_protected (h : cand.getLsbD 16 = false) (hleft : 2 ≤ s.bufLen.toNat - c) : crcSkip s cand c = some (c + 2) := by
  rw [crcSkip, hdrProtection_eq_toNat, h, if_neg (by decide), if_neg hleft.not_gt]

theorem crcSkip_of_end (h : cand.getLsbD 16 = false) (hleft : s.bufLen.toNat - c < 2) : crcSkip s cand c = none := by
  rw [crcSkip, hdrProtection_eq_toNat, h, if_neg (by decide), if_pos hleft]

end CrcSkip

theorem moveCursor_self (s : State) : moveCursor s.cursor.toNat s.draws s = s := by
  simp [moveCursor]

/-- Settles O36: where the scan ends, then the row's equation of NEXT_FRAME. -/
theorem nextFrameOutcomeTable : Obligations.NextFrameOutcomeTable := by
  intro s _ hattached
  refine ⟨fun hshort => ?_, fun h4 hno => ?_, fun m hm => ?_⟩
  · rw [exec_nextFrame_of_none hattached (syncScan_of_short hshort), moveCursor_self]
    rfl
  · obtain ⟨d, hscan⟩ := syncScan_of_noSync h4 hno
    refine ⟨d, ?_⟩
    rw [exec_nextFrame_of_none hattached hscan, moveCursor, BitVec.ofNat_toNat, BitVec.setWidth_eq]
    rfl
  · have hscan := syncScan_of_firstSync hm
    refine ⟨fun kind why hrej => ?_, fun hok hcrc => ?_, fun hok hcrc hleft => ?_, fun hok hcrc hleft => ?_⟩
    · exact ⟨_, _, _, headerCheck_codes hrej, exec_nextFrame_of_reject hattached hscan hrej⟩
    · exact ⟨_, exec_nextFrame_of_accept hattached hscan hok (crcSkip_of_unprotected hcrc)⟩
    · exact ⟨_, exec_nextFrame_of_accept hattached hscan hok (crcSkip_of_protected hcrc hleft)⟩
    · exact ⟨_, exec_nextFrame_of_noCrc hattached hscan hok (crcSkip_of_end hcrc hleft)⟩

end Sys2Proof.Machine

namespace Sys2Proof.Machine

/-! The host's accesses (20_memory.md R30, R31): a step for each kind, and where the interface ends. -/

section Access
variable {s : State} {rest : List HostAccess} {n i : Nat} {v : Word} {b : Byte}

theorem step_write (h : s.host = .write n v :: rest) : step s = portWrite n v (popAccess rest s) := by
  simp only [step, stepAccess, h, perform]

theorem step_readNumber (h : s.host = .read n :: rest) : step s = portRead n (popAccess rest s) := by
  simp only [step, stepAccess, h, perform]

theorem step_store (h : s.host = .store i b :: rest) : step s = hostStore i b (popAccess rest s) := by
  simp only [step, stepAccess, h, perform]

/-- A CMD write of a command runs it (30_encoding.md R55). -/
theorem step_command {c : Instr} (h : s.host = .write 0x00 v :: rest) (hrunning : s.fault = false) (hdecode : decode v = .ok c) :
    step s = exec c (popAccess rest s) := by
  rw [step_write h]
  change issue v (popAccess rest s) = _
  simp [issue, hrunning, hdecode]

/-- A store inside the buffer memory (R30, R37). -/
theorem step_store_ok (h : s.host = .store i b :: rest) (hi : i < 2 ^ s.cfg.addrW) :
    step s = .next { popAccess rest s with
      mem := memStore s.mem i b
      unstable := if s.attached ∧ i < s.bufLen.toNat then insertIndex s.unstable i else s.unstable } :=
  (step_store h).trans (if_neg hi.not_ge)

theorem regOfNumber_eq_none : regOfNumber n = none ↔ (0x0A ≤ n ∧ n ≤ 0x0F) ∨ 0x1E ≤ n := by
  have hnone : regOfNumber n = none ↔ ¬ ∃ r, regNumber r = n := by
    simp [Option.eq_none_iff_forall_ne_some, regOfNumber_eq_some]
  rw [hnone, exists_regNumber]
  omega

theorem portWrite_unassigned (hn : regOfNumber n = none) : portWrite n v s = .refused (.unassignedRegister n) := by
  simp only [portWrite, hn]

theorem portRead_unassigned (hn : regOfNumber n = none) : portRead n s = .refused (.unassignedRegister n) := by
  simp only [portRead, hn]

end Access

/-- Every command answers a next state (60_exceptions.md R106). -/
theorem exec_next (i : Instr) (s : State) : ∃ t, exec i s = .next t := by
  cases i with
  | attach =>
    by_cases hrange : 2 ^ s.cfg.addrW ≤ s.arg0.toNat ∨ s.arg0.toNat < s.arg1.toNat
    · exact ⟨_, exec_attach_of_range hrange⟩
    · push Not at hrange
      exact ⟨_, exec_attach_of_ok hrange.1 hrange.2⟩
  | nextFrame =>
    cases hattached : s.attached with
    | false => exact ⟨_, exec_nextFrame_of_unattached hattached⟩
    | true => exact exec_nextFrame_next hattached
  | decodeHeader =>
    rcases lt_or_ge s.arg0.toNat (2 ^ 32) with hwidth | hwidth
    · cases hcheck : headerCheck s.cfg (s.arg0.extractLsb' 0 32) with
      | accept => exact ⟨_, exec_decodeHeader_of_accept hwidth hcheck⟩
      | reject kind why => exact ⟨_, exec_decodeHeader_of_reject hwidth hcheck⟩
    · exact ⟨_, exec_decodeHeader_of_width hwidth⟩
  | bitRange w start stop =>
    rcases lt_or_ge s.arg0.toNat (2 ^ widthBits w) with hwidth | hwidth
    · rcases lt_or_ge (spanHigh (widthBits w) stop) (spanLow start) with hspan | hspan
      · exact ⟨_, exec_bitRange_of_inverted hwidth hspan⟩
      · rcases lt_or_ge (widthBits w) (spanHigh (widthBits w) stop) with hrange | hrange
        · exact ⟨_, exec_bitRange_of_outOfRange hwidth hspan hrange⟩
        · exact ⟨_, exec_bitRange_of_ok hwidth hspan hrange⟩
    · exact ⟨_, exec_bitRange_of_width hwidth⟩

theorem issue_next (v : Word) (s : State) : ∃ t, issue v s = .next t := by
  simp only [issue]
  split
  · exact ⟨_, rfl⟩
  · split
    · exact ⟨_, rfl⟩
    · exact exec_next _ s

theorem portWrite_next {n : Nat} {r : Reg} (hr : regOfNumber n = some r) (v : Word) (s : State) : ∃ t, portWrite n v s = .next t := by
  simp only [portWrite, hr]
  split
  · contradiction
  · exact issue_next v s
  all_goals exact ⟨_, rfl⟩

theorem portRead_next {n : Nat} {r : Reg} (hr : regOfNumber n = some r) (s : State) : ∃ t, portRead n s = .next t := by
  simp only [portRead, hr]
  exact ⟨_, rfl⟩

/-- A write to a read-only register changes nothing (R31). -/
theorem portWrite_readOnly {n : Nat} (hn : (0x03 ≤ n ∧ n ≤ 0x09) ∨ (0x10 ≤ n ∧ n ≤ 0x1D)) (v : Word) (s : State) :
    portWrite n v s = .next s := by
  obtain ⟨r, hr⟩ := exists_regNumber.mpr (show n ≤ 0x09 ∨ (0x10 ≤ n ∧ n ≤ 0x1D) by omega)
  obtain ⟨t, h⟩ := portWrite_next (regOfNumber_eq_some.mpr hr) v s
  rcases portWrite_cases h with ⟨rfl, _⟩ | ⟨rfl, _⟩ | ⟨rfl, _⟩ | ⟨_, rfl⟩
  · omega
  · omega
  · omega
  · exact h

/-- Settles O11: ARG0 and ARG1 by their equations, every other number but CMD's is read-only. -/
theorem portWritesStoreOrAreIgnored : Obligations.PortWritesStoreOrAreIgnored := by
  intro s n v rest h
  refine ⟨?_, ?_, fun hn => ?_⟩
  · rintro rfl
    exact step_write h
  · rintro rfl
    exact step_write h
  · exact (step_write h).trans (portWrite_readOnly hn v _)

/-- The next access reads or writes the unassigned register number `n` (R31). -/
def UnassignedAccess (s : State) (n : Nat) : Prop :=
  ((0x0A ≤ n ∧ n ≤ 0x0F) ∨ 0x1E ≤ n) ∧ ∃ rest, s.host = .read n :: rest ∨ ∃ v, s.host = .write n v :: rest

/-- The next access stores to index `i`, which is beyond the buffer memory (R30). -/
def StoreBeyondMemory (s : State) (i : Nat) : Prop :=
  2 ^ s.cfg.addrW ≤ i ∧ ∃ b rest, s.host = .store i b :: rest

theorem step_of_unassigned {s : State} {n : Nat} (h : UnassignedAccess s n) : step s = .refused (.unassignedRegister n) := by
  obtain ⟨hn, rest, hread | ⟨v, hwrite⟩⟩ := h
  · exact (step_readNumber hread).trans (portRead_unassigned (regOfNumber_eq_none.mpr hn))
  · exact (step_write hwrite).trans (portWrite_unassigned (regOfNumber_eq_none.mpr hn))

theorem step_of_storeBeyond {s : State} {i : Nat} (h : StoreBeyondMemory s i) : step s = .fault (.noSuchBufferByte i) := by
  obtain ⟨hi, b, rest, hstore⟩ := h
  exact (step_store hstore).trans (if_pos hi)

/-- A step that is no access outside the interface answers a next state. -/
theorem step_next_or_outside (s : State) :
    (∃ t, step s = .next t) ∨ (∃ n, UnassignedAccess s n) ∨ ∃ i, StoreBeyondMemory s i := by
  rcases hhost : s.host with _ | ⟨⟨n, v⟩ | n | ⟨i, b⟩ | _, rest⟩
  case nil => exact .inl ⟨s, by simp only [step, stepAccess, hhost]⟩
  case cons.write =>
    cases hr : regOfNumber n with
    | none => exact .inr (.inl ⟨n, regOfNumber_eq_none.mp hr, rest, .inr ⟨v, hhost⟩⟩)
    | some r => exact .inl ((portWrite_next hr v _).imp fun _ => (step_write hhost).trans)
  case cons.read =>
    cases hr : regOfNumber n with
    | none => exact .inr (.inl ⟨n, regOfNumber_eq_none.mp hr, rest, .inl hhost⟩)
    | some r => exact .inl ((portRead_next hr _).imp fun _ => (step_readNumber hhost).trans)
  case cons.store =>
    rcases lt_or_ge i (2 ^ s.cfg.addrW) with hi | hi
    · exact .inl ⟨_, step_store_ok hhost hi⟩
    · exact .inr (.inr ⟨i, hi, b, rest, hhost⟩)
  case cons.reset => exact .inl ⟨_, step_reset hhost⟩

theorem step_refused_iff {s : State} {r : Refusal} :
    step s = .refused r ↔ ∃ n, r = .unassignedRegister n ∧ UnassignedAccess s n := by
  constructor
  · intro h
    rcases step_next_or_outside s with ⟨t, ht⟩ | ⟨n, hn⟩ | ⟨i, hi⟩
    · simp [ht] at h
    · exact ⟨n, Host.Outcome.refused.inj (h.symm.trans (step_of_unassigned hn)), hn⟩
    · simp [step_of_storeBeyond hi] at h
  · rintro ⟨n, rfl, hn⟩
    exact step_of_unassigned hn

theorem step_fault_iff {s : State} {f : Fault} : step s = .fault f ↔ ∃ i, f = .noSuchBufferByte i ∧ StoreBeyondMemory s i := by
  constructor
  · intro h
    rcases step_next_or_outside s with ⟨t, ht⟩ | ⟨n, hn⟩ | ⟨i, hi⟩
    · simp [ht] at h
    · simp [step_of_unassigned hn] at h
    · exact ⟨i, Host.Outcome.fault.inj (h.symm.trans (step_of_storeBeyond hi)), hi⟩
  · rintro ⟨i, rfl, hi⟩
    exact step_of_storeBeyond hi

/-- Settles O10: the refusals and the faults, one equivalence each. -/
theorem stepStopsOnlyOutsideTheInterface : Obligations.StepStopsOnlyOutsideTheInterface := by
  intro s
  constructor
  · intro r
    rw [step_refused_iff]
    simp only [UnassignedAccess, exists_and_left]
  · intro f
    rw [step_fault_iff]
    simp only [StoreBeyondMemory, exists_and_left]

/-! A host store (R30, R37). -/

/-- No register shows the buffer memory or which of its bytes are drawn. -/
theorem readReg_mem (s : State) (m : Memory) (l : List Nat) (r : Reg) :
    readReg { s with mem := m, unstable := l } r = readReg s r := by
  cases r <;> rfl

/-- Settles O50: read after write of the buffer memory, and the frame of the registers. -/
theorem hostStoreWritesOneByte : Obligations.HostStoreWritesOneByte := by
  intro s i b rest h hi
  refine ⟨_, step_store_ok h hi, memByte_memStore_same _ _ _, fun j hj => memByte_memStore_other _ _ _ _ hj, fun r => ?_, rfl, rfl⟩
  rw [readReg_mem, readReg_popAccess]

/-- What MemRead of `i` answers depends on the byte at `i` and on whether it is drawn. -/
theorem memRead_eq_of_byte {s t : State} {d i : Nat} (hu : i ∈ t.unstable ↔ i ∈ s.unstable)
    (hm : memByte t.mem i = memByte s.mem i) : memRead t d i = memRead s d i := by
  simp only [memRead, hu, hm]

/-- Only an ATTACH that does not fault changes which bytes are drawn: then none is (R37). -/
theorem exec_unstable {i : Instr} {s t : State} (h : exec i s = .next t) :
    t.unstable = s.unstable ∨ (i = .attach ∧ t.fault = s.fault ∧ t.unstable = []) := by
  by_cases hi : i = .attach
  · subst hi
    rcases execAttach_cases h with ⟨_, rfl⟩ | ⟨_, _, rfl⟩
    · exact .inl rfl
    · exact .inr ⟨rfl, rfl, rfl⟩
  · obtain ⟨-, -, -, -, -, -, -, hview, -⟩ := commandsLeaveTheRestUnchanged _ _ _ h
    exact .inl (hview hi).2.2

theorem step_keeps_unstable {s t : State} (h : step s = .next t) (hreset : ¬ AssertsReset s)
    (hattach : ¬ (Issues s .attach ∧ t.fault = false)) : s.unstable ⊆ t.unstable := by
  rcases step_cases h with ⟨_, rfl⟩ | ⟨v, rest, hhost, hissue⟩ | ⟨_, _, _, rfl⟩ | ⟨_, _, _, rfl⟩ | ⟨_, _, _, _, _, rfl⟩ |
    ⟨_, _, _, rfl⟩ | ⟨_, _, _, _, _, rfl⟩ | ⟨rest, hhost, rfl⟩
  · exact List.Subset.refl _
  · rcases issue_cases hissue with ⟨_, rfl⟩ | ⟨_, _, rfl⟩ | ⟨hrunning, i, hdecode, hexec⟩
    · exact List.Subset.refl _
    · exact List.Subset.refl _
    · rcases exec_unstable hexec with hkept | ⟨rfl, hfault, -⟩
      · exact hkept ▸ List.Subset.refl _
      · exact absurd ⟨⟨v, rest, hhost, hrunning, hdecode⟩, hfault.trans hrunning⟩ hattach
  · exact List.Subset.refl _
  · exact List.Subset.refl _
  · exact List.Subset.refl _
  · exact List.Subset.refl _
  · intro j hj
    dsimp only
    split
    · exact mem_insertIndex.mpr (.inr hj)
    · exact hj
  · exact absurd ⟨rest, hhost⟩ hreset

/-- After a reset or a successful ATTACH no byte is drawn. -/
theorem step_ends_draws {s t : State} (h : step s = .next t) (hends : AssertsReset s ∨ (Issues s .attach ∧ t.fault = false)) :
    t.unstable = [] := by
  rcases hends with ⟨rest, hhost⟩ | ⟨⟨v, rest, hhost, hrunning, hdecode⟩, hfault⟩
  · rw [step_reset hhost] at h
    rw [← Host.Outcome.next.inj h, resetBlock_unstable]
  · rw [step_command hhost hrunning hdecode] at h
    rcases execAttach_cases h with ⟨_, rfl⟩ | ⟨_, _, rfl⟩
    · simp at hfault
    · rfl

/-- Settles O51: the store lists its byte as drawn, and only a reset or a successful ATTACH takes it off the list. -/
theorem attachedStoreMakesReadsDraws : Obligations.AttachedStoreMakesReadsDraws := by
  refine ⟨fun s i b rest h hi hattached hin => ?_, fun s t i hdrawn h hreset hattach d => ?_, fun s t h hends d i => ?_⟩
  · refine ⟨_, step_store_ok h hi, fun d => memRead_unstable ?_, fun d j hj => memRead_eq_of_byte ?_ ?_⟩
    · simp [hattached, hin]
    · simp [hattached, hin, hj]
    · exact memByte_memStore_other _ _ _ _ hj
  · exact memRead_unstable (step_keeps_unstable h hreset hattach hdrawn)
  · exact memRead_stable (by simp [step_ends_draws h hends])

/-! Which bytes a command reads (R32, R36): none but NEXT_FRAME's scan, so a command answers the same from another memory in which
the scan is the same. -/

section OtherMemory
variable {s t : State} {m : Memory}

theorem exec_nextFrame_mem (hscan : syncScan { s with mem := m } = syncScan s) (h : exec .nextFrame s = .next t) :
    exec .nextFrame { s with mem := m } = .next { t with mem := m } := by
  have hfrom (found : Option HdrWord) (hfound : (syncScan s).found = found) :
      syncScan { s with mem := m } = ⟨found, (syncScan s).cursor, (syncScan s).draws⟩ := by
    rw [hscan, ← hfound]
  rcases execNextFrame_cases h with ⟨hunattached, rfl⟩ | ⟨hattached, hfound, rfl⟩ |
    ⟨hattached, cand, hfound, ⟨_, _, hrej, rfl⟩ | ⟨hok, hcrc, rfl⟩ | ⟨hok, c, hcrc, rfl⟩⟩
  · exact exec_nextFrame_of_unattached (s := { s with mem := m }) hunattached
  · exact exec_nextFrame_of_none (s := { s with mem := m }) hattached (hfrom _ hfound)
  · exact exec_nextFrame_of_reject (s := { s with mem := m }) hattached (hfrom _ hfound) hrej
  · exact exec_nextFrame_of_noCrc (s := { s with mem := m }) hattached (hfrom _ hfound) hok hcrc
  · exact exec_nextFrame_of_accept (s := { s with mem := m }) hattached (hfrom _ hfound) hok hcrc

theorem exec_attach_mem (h : exec .attach s = .next t) : exec .attach { s with mem := m } = .next { t with mem := m } := by
  rcases execAttach_cases h with ⟨hrange, rfl⟩ | ⟨hlen, hstart, rfl⟩
  · exact exec_attach_of_range (s := { s with mem := m }) hrange
  · exact exec_attach_of_ok (s := { s with mem := m }) hlen hstart

theorem exec_decodeHeader_mem (h : exec .decodeHeader s = .next t) :
    exec .decodeHeader { s with mem := m } = .next { t with mem := m } := by
  rcases execDecodeHeader_cases h with ⟨hwidth, rfl⟩ | ⟨hwidth, hok, rfl⟩ | ⟨hwidth, _, _, hrej, rfl⟩
  · exact exec_decodeHeader_of_width (s := { s with mem := m }) hwidth
  · exact exec_decodeHeader_of_accept (s := { s with mem := m }) hwidth hok
  · exact exec_decodeHeader_of_reject (s := { s with mem := m }) hwidth hrej

/-- BIT_RANGE's checks and its value depend on ARG0 and the command word only. -/
theorem exec_bitRange_mem {w : Width} {start stop : Bound} (h : exec (.bitRange w start stop) s = .next t) :
    exec (.bitRange w start stop) { s with mem := m } = .next { t with mem := m } := by
  simp only [exec, execBitRange] at h ⊢
  split_ifs at h ⊢
  all_goals
    cases h
    rfl

end OtherMemory

/-- Settles O43: the scan reads below BUF_LEN, and no other command reads a byte. -/
theorem bytesBeyondTheBufferAreNotRead : Obligations.BytesBeyondTheBufferAreNotRead := by
  intro i s t m h hbytes
  cases i with
  | attach => exact exec_attach_mem h
  | decodeHeader => exact exec_decodeHeader_mem h
  | bitRange w start stop => exact exec_bitRange_mem h
  | nextFrame =>
    obtain ⟨-, hend⟩ := syncScan_cursor s
    exact exec_nextFrame_mem (syncScan_congr rfl rfl rfl rfl fun k _ hlt => hbytes k (by omega)) h

/-- A NEXT_FRAME that returns a protected header ends 2 bytes after the scan (43_synchronizer.md R80). -/
theorem exec_nextFrame_protected {s t : State} (h : exec .nextFrame s = .next t) (hattached : s.attached = true)
    (hresult : t.result = 1) (hprotected : t.hdrRaw.getLsbD 16 = false) : t.cursor.toNat = (syncScan s).cursor + 2 := by
  rcases execNextFrame_cases h with ⟨hunattached, _⟩ | ⟨_, _, rfl⟩ |
    ⟨_, cand, _, ⟨_, _, hrej, rfl⟩ | ⟨_, _, rfl⟩ | ⟨_, c, hcrc, rfl⟩⟩
  · simp [hattached] at hunattached
  · simp [resultCode] at hresult
  · exact absurd (resultCode_eq_one.mp hresult) (reasonFits_of_reject hrej).1
  · simp [resultCode] at hresult
  · have hbit : cand.getLsbD 16 = false := hprotected
    rcases crcSkip_some hcrc with ⟨hunprotected, _⟩ | ⟨_, hleft, rfl⟩
    · rw [hdrProtection_eq_toNat, hbit] at hunprotected
      contradiction
    · have := s.bufLen.isLt
      exact Nat.mod_eq_of_lt (by omega)

/-- Settles O42: the scan has read no byte of the CRC. -/
theorem crcBytesAreNotInspected : Obligations.CrcBytesAreNotInspected := by
  intro s t m _ hattached h hresult hprotected hbytes
  have hend := exec_nextFrame_protected h hattached hresult hprotected
  exact exec_nextFrame_mem (syncScan_congr rfl rfl rfl rfl fun i hi hlt => hbytes i hi (by omega)) h

/-- Settles O34: the two equations of ATTACH, field by field. -/
theorem attachPlacesTheView : Obligations.AttachPlacesTheView := by
  intro s _
  exact ⟨exec_attach_of_range, exec_attach_of_ok⟩

/-- Settles O39: appending a byte shifts the earlier ones by 8; `shiftIn_bigEndian` says the rest. -/
theorem headerBytesAssembleBigEndian : Obligations.HeaderBytesAssembleBigEndian := by
  intro b0 b1 b2 b3 b4
  refine ⟨?_, shiftIn_bigEndian b0 b1 b2 b3 b4⟩
  simp only [bigEndian, BitVec.toNat_append, Nat.shiftLeft_or_distrib, ← Nat.shiftLeft_add]

end Sys2Proof.Machine

namespace Sys2Proof

/-! The command word (30_encoding.md R53 to R55): which words decode and to what, said once as an equivalence, and the word as the row
of its own fields. -/

section Decode
variable {v : Word} {i : Instr}

theorem decodePlain_eq_ok {j : Instr} : decodePlain v j = .ok i ↔ v.extractLsb' 4 28 = 0#28 ∧ i = j := by
  simp only [decodePlain]
  split_ifs with h
  · simp [h]
  · simp [not_not.mp h, eq_comm]

theorem decodeBitRange_eq_ok : decodeBitRange v = .ok i ↔
    v.extractLsb' 10 6 = 0#6 ∧ ∃ start stop, decodeBound (v.extractLsb' 6 2) (v.extractLsb' 16 8) = some start ∧
      decodeBound (v.extractLsb' 8 2) (v.extractLsb' 24 8) = some stop ∧
      i = .bitRange (decodeWidth (v.extractLsb' 4 2)) start stop := by
  simp only [decodeBitRange]
  split_ifs with h
  · simp [h]
  · cases decodeBound (v.extractLsb' 6 2) (v.extractLsb' 16 8) <;> cases decodeBound (v.extractLsb' 8 2) (v.extractLsb' 24 8)
    all_goals simp [not_not.mp h, eq_comm]

/-- The opcode map (R54) and the checks of R55. -/
theorem decode_eq_ok : decode v = .ok i ↔ v.extractLsb' 32 32 = 0#32 ∧
    ((v.extractLsb' 0 4 = 1#4 ∧ decodePlain v .attach = .ok i) ∨
      (v.extractLsb' 0 4 = 2#4 ∧ decodePlain v .nextFrame = .ok i) ∨
      (v.extractLsb' 0 4 = 3#4 ∧ decodePlain v .decodeHeader = .ok i) ∨
      (v.extractLsb' 0 4 = 4#4 ∧ decodeBitRange v = .ok i)) := by
  simp only [decode]
  split_ifs
  all_goals simp_all

end Decode

theorem word_eq_fields (v : Word) :
    v = v.extractLsb' 32 32 ++ v.extractLsb' 24 8 ++ v.extractLsb' 16 8 ++ v.extractLsb' 10 6 ++ v.extractLsb' 8 2
      ++ v.extractLsb' 6 2 ++ v.extractLsb' 4 2 ++ v.extractLsb' 0 4 := by
  iterate 7 rw [BitVec.extractLsb'_append_extractLsb'_eq_extractLsb' (by rfl)]
  exact BitVec.extractLsb'_eq_self.symm

/-- A word without operand bits is its OP alone. -/
theorem word_eq_op {v : Word} (hhigh : v.extractLsb' 32 32 = 0#32) (hoperands : v.extractLsb' 4 28 = 0#28) :
    v = 0#60 ++ v.extractLsb' 0 4 := by
  calc v = v.extractLsb' 32 32 ++ v.extractLsb' 4 28 ++ v.extractLsb' 0 4 := by
        iterate 2 rw [BitVec.extractLsb'_append_extractLsb'_eq_extractLsb' (by rfl)]
        exact BitVec.extractLsb'_eq_self.symm
    _ = 0#60 ++ v.extractLsb' 0 4 := by rw [hhigh, hoperands]; rfl

/-! Encode, then decode. -/

theorem decode_encode {i : Instr} (h : i.wf = true) : decode (encode i) = .ok i := by
  cases i with
  | attach => rfl
  | nextFrame => rfl
  | decodeHeader => rfl
  | bitRange w start stop =>
    obtain ⟨hstart, hstop⟩ : start.wf = true ∧ stop.wf = true := by simpa [Instr.wf] using h
    obtain ⟨hop, hwsel, hskind, hekind, hreserved, hspos, hepos, hhigh⟩ :=
      command_fields start.posField stop.posField stop.kind start.kind w.sel 4#4
    refine decode_eq_ok.mpr ⟨hhigh, .inr (.inr (.inr ⟨hop, decodeBitRange_eq_ok.mpr ⟨hreserved, start, stop, ?_, ?_, ?_⟩⟩))⟩
    · exact (congrArg₂ decodeBound hskind hspos).trans (decodeBound_fields start hstart)
    · exact (congrArg₂ decodeBound hekind hepos).trans (decodeBound_fields stop hstop)
    · exact congrArg (Instr.bitRange · start stop) ((congrArg decodeWidth hwsel).trans (decodeWidth_sel w)).symm

/-- Settles O1: the fields read back from the packing are those of the command, and each decodes back. -/
theorem decodeOfEncodeIsIdentity : Obligations.DecodeOfEncodeIsIdentity :=
  fun _ => decode_encode

/-! Decode, then encode. -/

theorem sel_decodeWidth (wsel : BitVec 2) : (decodeWidth wsel).sel = wsel := by
  revert wsel
  decide

/-- The position bits that R53 ignores: the whole field under kind 00, none under another kind. -/
def ignoredPosition (kind : BitVec 2) : BitVec 8 :=
  if kind = 0#2 then 0xFF#8 else 0#8

/-- A decoded bound encodes to the fields it was read from, but for ignored position bits, which encode as 0 (R59). -/
theorem fields_of_decodeBound {kind : BitVec 2} {pos : BitVec 8} {b : Bound} (h : decodeBound kind pos = some b) :
    b.wf = true ∧ b.kind = kind ∧ b.posField = pos &&& ~~~ignoredPosition kind := by
  have hpos : pos.toNat < 256 := pos.isLt
  have hall : pos = pos &&& 0xFF#8 := BitVec.and_allOnes.symm
  rcases decodeBound_cases h with ⟨rfl, rfl⟩ | ⟨rfl, rfl⟩ | ⟨rfl, rfl⟩
  · simp [Bound.wf, Bound.kind, Bound.posField, ignoredPosition]
  · simpa [Bound.wf, Bound.kind, Bound.posField, ignoredPosition] using ⟨hpos, hall⟩
  · simpa [Bound.wf, Bound.kind, Bound.posField, ignoredPosition] using ⟨hpos, hall⟩

/-- The mask of `Obligations.EncodeOfDecodeClearsIgnoredPositions`, laid out by the fields of R53. -/
theorem ignored_mask (skind ekind : BitVec 2) :
    (if skind = 0#2 then 0x0000000000FF0000#64 else 0#64) ||| (if ekind = 0#2 then 0x00000000FF000000#64 else 0#64)
      = 0#32 ++ ignoredPosition ekind ++ ignoredPosition skind ++ 0#6 ++ 0#2 ++ 0#2 ++ 0#2 ++ 0#4 := by
  revert skind ekind
  decide

theorem and_not_zero {n : Nat} (x : BitVec n) : x &&& ~~~0#n = x := by
  simp

theorem encode_of_decodePlain {v : Word} {i j : Instr} (hencode : encode j = 0#60 ++ v.extractLsb' 0 4)
    (hhigh : v.extractLsb' 32 32 = 0#32) (h : decodePlain v j = .ok i) : i = j ∧ encode j = v := by
  obtain ⟨hoperands, rfl⟩ := decodePlain_eq_ok.mp h
  exact ⟨rfl, hencode.trans (word_eq_op hhigh hoperands).symm⟩

/-- Field by field: only the positions can differ from those of the word. -/
theorem encode_of_decodeBitRange {v : Word} {i : Instr} (hhigh : v.extractLsb' 32 32 = 0#32) (hop : v.extractLsb' 0 4 = 4#4)
    (h : decodeBitRange v = .ok i) :
    i.wf = true ∧ encode i = v &&& ~~~(0#32 ++ ignoredPosition (v.extractLsb' 8 2) ++ ignoredPosition (v.extractLsb' 6 2)
      ++ 0#6 ++ 0#2 ++ 0#2 ++ 0#2 ++ 0#4) := by
  obtain ⟨hreserved, start, stop, hstart, hstop, rfl⟩ := decodeBitRange_eq_ok.mp h
  obtain ⟨hstartwf, hskind, hspos⟩ := fields_of_decodeBound hstart
  obtain ⟨hstopwf, hekind, hepos⟩ := fields_of_decodeBound hstop
  refine ⟨by simp [Instr.wf, hstartwf, hstopwf], ?_⟩
  calc encode (.bitRange (decodeWidth (v.extractLsb' 4 2)) start stop)
    _ = (v.extractLsb' 32 32 &&& ~~~0#32) ++ (v.extractLsb' 24 8 &&& ~~~ignoredPosition (v.extractLsb' 8 2))
          ++ (v.extractLsb' 16 8 &&& ~~~ignoredPosition (v.extractLsb' 6 2)) ++ (v.extractLsb' 10 6 &&& ~~~0#6)
          ++ (v.extractLsb' 8 2 &&& ~~~0#2) ++ (v.extractLsb' 6 2 &&& ~~~0#2) ++ (v.extractLsb' 4 2 &&& ~~~0#2)
          ++ (v.extractLsb' 0 4 &&& ~~~0#4) := by
      simp only [encode, sel_decodeWidth, hskind, hspos, hekind, hepos, hop, hhigh, hreserved, and_not_zero]
    _ = _ := by
      simp only [← BitVec.and_append, ← BitVec.not_append]
      exact congrArg (· &&& _) (word_eq_fields v).symm

/-- Settles O2: a BIT_RANGE word field by field; the other commands have the one word that is their OP. -/
theorem encodeOfDecodeClearsIgnoredPositions : Obligations.EncodeOfDecodeClearsIgnoredPositions := by
  intro v i h
  rw [ignored_mask]
  obtain ⟨hhigh, ⟨hop, h⟩ | ⟨hop, h⟩ | ⟨hop, h⟩ | ⟨hop, h⟩⟩ := decode_eq_ok.mp h
  case inr.inr.inr => exact encode_of_decodeBitRange hhigh hop h
  all_goals
    obtain ⟨rfl, hv⟩ := encode_of_decodePlain (by rw [hop]; rfl) hhigh h
    rw [← hv]
    exact ⟨rfl, by decide⟩

/-! The reserved encodings (R57). -/

theorem exists_decodePlain_eq_ok {v : Word} {j : Instr} : (∃ i, decodePlain v j = .ok i) ↔ v.extractLsb' 4 28 = 0#28 := by
  simp [decodePlain_eq_ok]

theorem exists_decodeBound_eq_some {kind : BitVec 2} {pos : BitVec 8} : (∃ b, decodeBound kind pos = some b) ↔ kind ≠ 3#2 := by
  rw [← Option.ne_none_iff_exists', ne_eq, decodeBound_none]

theorem exists_decodeBitRange_eq_ok {v : Word} : (∃ i, decodeBitRange v = .ok i) ↔
    v.extractLsb' 10 6 = 0#6 ∧ v.extractLsb' 6 2 ≠ 3#2 ∧ v.extractLsb' 8 2 ≠ 3#2 := by
  simp [decodeBitRange_eq_ok, exists_decodeBound_eq_some]

/-- What decodes, clause by clause against R57: OP 4 is none of 1, 2 and 3, and the rest is propositional. -/
theorem reservedWord_iff (v : Word) : ReservedWord v ↔ ¬ ∃ i, decode v = .ok i := by
  simp only [decode_eq_ok, exists_and_left, exists_or, exists_decodePlain_eq_ok, exists_decodeBitRange_eq_ok, ReservedWord]
  grind

end Sys2Proof

namespace Sys2Proof.Machine

/-! The register writes as steps, by their numbers: CMD while halted and with a reserved word, ARG0 and ARG1 (20_memory.md R31,
30_encoding.md R55, 60_exceptions.md R92). -/

section RegisterWrites
variable {s : State} {v : Word} {rest : List HostAccess}

theorem step_halted_command (h : s.host = .write 0x00 v :: rest) (hhalted : s.fault = true) :
    step s = .next { s with host := rest } :=
  (step_write h).trans (if_pos hhalted)

theorem step_reserved (h : s.host = .write 0x00 v :: rest) (hrunning : s.fault = false) (hreserved : ¬ ∃ i, decode v = .ok i) :
    step s = .next (raiseFault .illegalCommand (popAccess rest s)) := by
  rw [step_write h]
  change issue v (popAccess rest s) = _
  cases hdecode : decode v with
  | ok i => exact absurd ⟨i, hdecode⟩ hreserved
  | error e => simp [issue, hrunning, hdecode]

theorem step_arg0 (h : s.host = .write 0x01 v :: rest) : step s = .next { s with host := rest, arg0 := v } :=
  step_write h

theorem step_arg1 (h : s.host = .write 0x02 v :: rest) : step s = .next { s with host := rest, arg1 := v } :=
  step_write h

end RegisterWrites

/-- Settles O3: `reservedWord_iff`, and the step of a word that is no command. -/
theorem reservedEncodingsRaiseIllegalCommand : Obligations.ReservedEncodingsRaiseIllegalCommand := by
  intro v
  exact ⟨reservedWord_iff v, fun hreserved _ _ h hrunning => step_reserved h hrunning ((reservedWord_iff v).mp hreserved)⟩

/-- Settles O7. -/
theorem stepRunsTheDecodedCommand : Obligations.StepRunsTheDecodedCommand :=
  fun _ _ _ _ => step_command

/-- Settles O19: of the four accesses only the CMD write looks at FAULT. -/
theorem haltedBlockIgnoresCommands : Obligations.HaltedBlockIgnoresCommands := by
  intro s rest hhalted
  exact ⟨fun _ h => step_halted_command h hhalted, fun _ => step_arg0, fun _ => step_arg1, fun _ => step_read⟩

/-- Settles O4: each word is decoded. -/
theorem wordsOfTheEncodingTables : Obligations.WordsOfTheEncodingTables :=
  ⟨rfl, rfl, rfl, rfl, rfl, rfl, rfl⟩

/-! The host's lines (R59): the BIT_RANGE word as its fields, each shifted to its place. -/

theorem setWidth_append_eq_or {n m k : Nat} (x : BitVec n) (y : BitVec m) :
    (x ++ y).setWidth k = x.setWidth k <<< m ||| y.setWidth k := by
  ext j hj
  simp only [BitVec.getElem_setWidth, BitVec.getLsbD_append, BitVec.getElem_or, BitVec.getElem_shiftLeft]
  split_ifs with h
  · simp [h]
  · simp [h, BitVec.getLsbD_of_ge y j (by omega)]

theorem or_reverse {n : Nat} (a b c d e f : BitVec n) : a ||| b ||| c ||| d ||| e ||| f = f ||| e ||| d ||| c ||| b ||| a := by
  ac_rfl

theorem encode_bitRange (w : Width) (start stop : Bound) : encode (.bitRange w start stop) =
    0x4 ||| (w.sel.setWidth 64 <<< 4) ||| (start.kind.setWidth 64 <<< 6) ||| (stop.kind.setWidth 64 <<< 8)
      ||| (start.posField.setWidth 64 <<< 16) ||| (stop.posField.setWidth 64 <<< 24) := by
  calc encode (.bitRange w start stop)
    _ = (0#32 ++ stop.posField ++ start.posField ++ 0#6 ++ stop.kind ++ start.kind ++ w.sel ++ 4#4).setWidth 64 :=
      (BitVec.setWidth_eq _).symm
    _ = _ := by
      simp only [setWidth_append_eq_or, BitVec.shiftLeft_or_distrib, ← BitVec.shiftLeft_add]
      simp [or_reverse]

/-- Settles O5: the expansions are the definition's; the BIT_RANGE word is `encode_bitRange`. -/
theorem hostLinesExpandAsTheTableSays : Obligations.HostLinesExpandAsTheTableSays := by
  intro s
  refine ⟨fun _ _ => rfl, rfl, fun _ => rfl, ?_, fun _ => rfl, rfl⟩
  intro w value start stop hstart hstop
  have hwf : (Instr.bitRange w start stop).wf = true := by simp [Instr.wf, hstart, hstop]
  exact ⟨_, if_pos hwf, encode_bitRange w start stop⟩

/-! Runs of the host's lines (R59, R60). -/

theorem run_succ_of_step {k : Nat} {s t : State} (h : step s = .next t) :
    Host.Core.run core (k + 1) s = Host.Core.run core k t := by
  simp only [Host.Core.run, core, h]

/-- The three accesses of `attach LEN, START` run ATTACH on the operands they store. -/
theorem run_attachAccesses {s : State} {len start : Word} {rest : List HostAccess} (h : s.host = attachAccesses len start ++ rest)
    (hrunning : s.fault = false) :
    Host.Core.run core 3 s = exec .attach { s with host := rest, arg0 := len, arg1 := start } := by
  obtain ⟨t, ht⟩ := exec_next .attach { s with host := rest, arg0 := len, arg1 := start }
  rw [ht]
  have hlen : step s = .next { s with host := .write 0x02 start :: .write 0x00 1 :: rest, arg0 := len } := step_arg0 h
  have hstart : step { s with host := .write 0x02 start :: .write 0x00 1 :: rest, arg0 := len } =
      .next { s with host := .write 0x00 1 :: rest, arg0 := len, arg1 := start } := step_arg1 rfl
  have hcommand : step { s with host := .write 0x00 1 :: rest, arg0 := len, arg1 := start } = .next t :=
    (step_command (c := .attach) rfl (by exact hrunning) rfl).trans ht
  exact (run_succ_of_step hlen).trans ((run_succ_of_step hstart).trans (run_succ_of_step hcommand))

/-- The five accesses of `skip N` read CURSOR and BUF_LEN and run ATTACH of the same buffer at the new start. -/
theorem run_skip {s : State} {start : Word} (hrunning : s.fault = false) :
    Host.Core.run core 5 { s with
        host := [.read (regNumber .cursor), .read (regNumber .bufLen)] ++ attachAccesses s.bufLen start } =
      exec .attach { s with host := [], readData := s.bufLen, arg0 := s.bufLen, arg1 := start } := by
  have hcursor (rest : List HostAccess) : step { s with host := .read (regNumber .cursor) :: rest } =
      .next { s with host := rest, readData := s.cursor } := step_read (r := .cursor) rfl
  have hbufLen (rest : List HostAccess) : step { s with host := .read (regNumber .bufLen) :: rest, readData := s.cursor } =
      .next { s with host := rest, readData := s.bufLen } := step_read (r := .bufLen) rfl
  have hattach := run_attachAccesses (s := { s with host := attachAccesses s.bufLen start, readData := s.bufLen }) (rest := [])
    (List.append_nil _).symm hrunning
  exact (run_succ_of_step (hcursor _)).trans ((run_succ_of_step (hbufLen _)).trans hattach)

/-- Settles O52: the run is one ATTACH; the invariant bounds BUF_LEN, so only the new start can be out of range. -/
theorem skipMovesTheCursor : Obligations.SkipMovesTheCursor := by
  intro s n l hs hrunning hl
  obtain ⟨hfits, rfl⟩ : s.cursor.toNat + n < 2 ^ 64 ∧
      [.read (regNumber .cursor), .read (regNumber .bufLen)]
        ++ attachAccesses s.bufLen (BitVec.ofNat 64 (s.cursor.toNat + n)) = l := by
    simpa [expandLine] using hl
  have hstart : (BitVec.ofNat 64 (s.cursor.toNat + n)).toNat = s.cursor.toNat + n := Nat.mod_eq_of_lt hfits
  rw [run_skip hrunning]
  rcases le_or_gt (s.cursor.toNat + n) s.bufLen.toNat with hin | hbeyond
  · refine ⟨_, exec_attach_of_ok hs.bufferInMemory (hstart.trans_le hin), rfl, fun _ => ?_, fun h => absurd hin h.not_ge⟩
    exact ⟨hrunning, rfl, rfl, hstart, rfl⟩
  · refine ⟨_, exec_attach_of_range (.inr (hbeyond.trans_eq hstart.symm)), rfl, fun h => absurd h hbeyond.not_ge, fun _ => ?_⟩
    exact ⟨rfl, rfl, rfl, rfl⟩

end Sys2Proof.Machine

namespace Sys2Proof.Machine

/-! BIT_RANGE (41_bit_range.md R61 to R65): the bounds, the checks and the extracted value as the rules state them, and the source's
procedure against the value law. -/

/-- Settles O22: each bound is its row of the table. -/
theorem boundsResolveToTheSpan : Obligations.BoundsResolveToTheSpan :=
  fun _ _ => ⟨rfl, rfl, rfl, rfl, rfl, rfl⟩

theorem widthBits_eq_shiftLeft (w : Width) : 8 <<< w.sel.toNat = widthBits w := by
  cases w <;> rfl

theorem widthBits_le (w : Width) : widthBits w ≤ 64 := by
  cases w <;> decide

/-- Settles O23: the equation of the legal case, with the value law written out. -/
theorem bitRangeExtractsTheField : Obligations.BitRangeExtractsTheField := by
  intro w start stop s _
  rw [widthBits_eq_shiftLeft]
  exact exec_bitRange_of_ok

/-- Settles O24: one equation per check. -/
theorem bitRangeChecksInOrder : Obligations.BitRangeChecksInOrder := by
  intro w start stop s _
  rw [widthBits_eq_shiftLeft]
  exact ⟨exec_bitRange_of_width, exec_bitRange_of_inverted, exec_bitRange_of_outOfRange⟩

/-- A BIT_RANGE that does not fault had a legal span, and the 64 bits of BEXT_RESULT hold the value of the law uncut. -/
theorem exec_bitRange_unfaulted {w : Width} {start stop : Bound} {s t : State} (h : exec (.bitRange w start stop) s = .next t)
    (hrunning : t.fault = false) :
    s.arg0.toNat < 2 ^ widthBits w ∧ spanHigh (widthBits w) stop ≤ widthBits w ∧
      t.bextResult.toNat = bitRange s.arg0.toNat (spanLow start) (spanHigh (widthBits w) stop) := by
  rcases execBitRange_cases h with ⟨_, cause, rfl⟩ | ⟨hwidth, _, hrange, rfl⟩
  · simp at hrunning
  · have hlen : spanHigh (widthBits w) stop - spanLow start ≤ 64 := by
      have := widthBits_le w
      omega
    exact ⟨hwidth, hrange, Nat.mod_eq_of_lt ((bitRange_lt _ _ _).trans_le (Nat.pow_le_pow_right (by decide) hlen))⟩

section SourceProcedure
variable {n : Nat} (v : BitVec n)

/-- The top mask of R63 keeps the bits below `hi`; for `hi = 0` it shifts by the full width and keeps none. -/
theorem getLsbD_topMask {hi : Nat} (h : hi ≤ n) (j : Nat) :
    ((v <<< (n - hi)) >>> (n - hi)).getLsbD j = (decide (j < hi) && v.getLsbD j) := by
  have hin : n - hi + j < n ↔ j < hi := by omega
  simp [BitVec.getLsbD_ushiftRight, BitVec.getLsbD_shiftLeft, hin]

/-- The bits that the bottom mask of R63 clears are those that the last shift drops. -/
theorem ushiftRight_bottomMask (lo : Nat) : ((v >>> lo) <<< lo) >>> lo = v >>> lo := by
  ext j hj
  by_cases hin : lo + j < n
  · simp [hin]
  · simp [hin, BitVec.getLsbD_of_ge v (lo + j) (by omega)]

/-- The source's procedure computes the value law (R63). -/
theorem sourceProcedure_toNat {lo hi : Nat} (h : hi ≤ n) :
    (((((v <<< (n - hi)) >>> (n - hi)) >>> lo) <<< lo) >>> lo).toNat = bitRange v.toNat lo hi := by
  refine Nat.eq_of_testBit_eq fun k => ?_
  have hin : lo + k < hi ↔ k < hi - lo := by omega
  rw [ushiftRight_bottomMask, BitVec.testBit_toNat, BitVec.getLsbD_ushiftRight, getLsbD_topMask v h, bitRange_testBit,
    BitVec.testBit_toNat, decide_eq_decide.mpr hin]

end SourceProcedure

/-- Settles O25: the operand fits W bits, so it is its own W-bit vector, on which the procedure and the law agree. -/
theorem extractorEqualsTheSourceProcedure : Obligations.ExtractorEqualsTheSourceProcedure := by
  intro w start stop s t _ h hrunning
  obtain ⟨hwidth, hrange, hvalue⟩ := exec_bitRange_unfaulted h hrunning
  have hoperand : (s.arg0.setWidth (widthBits w)).toNat = s.arg0.toNat :=
    (BitVec.toNat_setWidth _ _).trans (Nat.mod_eq_of_lt hwidth)
  refine ⟨?_, ?_, fun k => ?_⟩
  · rw [sourceProcedure_toNat _ hrange, hoperand, hvalue]
  · exact hvalue.trans_lt (bitRange_lt _ _ _)
  · rw [← BitVec.testBit_toNat, hvalue, bitRange_testBit, BitVec.testBit_toNat]

end Sys2Proof.Machine


namespace Sys2Proof.Machine

/-! The header check (42_header_model.md R66 to R68): the chain over the slices of the word, what it says of a word with VERSION = 11,
and which bits of the word it reads. -/

/-- Settles O26: each field of the chain is its slice of the word, compared as a number. -/
theorem headerChecksRunInOrder : Obligations.HeaderChecksRunInOrder := by
  intro cfg raw
  simp only [headerCheck, hdrVersion_eq, hdrLayer_eq, hdrBitrateIndex_eq, hdrSrateIndex_eq, hdrEmphasis_eq, ← BitVec.toNat_inj]
  rfl

/-- The slices below SYNC are those of the word's low 21 bits, so nothing else decides the verdict (R67). -/
theorem headerCheck_congr (cfg : Config) {raw raw' : HdrWord} (h : raw.extractLsb' 0 21 = raw'.extractLsb' 0 21) :
    headerCheck cfg raw = headerCheck cfg raw' := by
  have slice (lo len : Nat) (hin : lo + len ≤ 21) : raw.extractLsb' lo len = raw'.extractLsb' lo len := by
    rw [← BitVec.extractLsb'_extractLsb'_of_le hin, h, BitVec.extractLsb'_extractLsb'_of_le hin]
  simp only [headerChecksRunInOrder cfg, slice 19 2 (by decide), slice 17 2 (by decide), slice 12 4 (by decide),
    slice 10 2 (by decide), slice 0 2 (by decide)]

section Version
variable (cfg : Config) {raw : HdrWord}

theorem headerCheck_version00 (hver : raw.extractLsb' 19 2 = 0b00#2) : headerCheck cfg raw = .reject .unsupportedFormat .mpeg25 :=
  (headerChecksRunInOrder cfg raw).trans (if_pos (.inl hver))

theorem headerCheck_version10 (hver : raw.extractLsb' 19 2 = 0b10#2) : headerCheck cfg raw = .reject .unsupportedFormat .mpeg2 := by
  simp [headerChecksRunInOrder cfg raw, hver]

/-- With VERSION = 11 the last four checks are left, whatever P_VERSION_01 is. -/
theorem headerCheck_version11 (hver : raw.extractLsb' 19 2 = 0b11#2) :
    headerCheck cfg raw =
      if raw.extractLsb' 17 2 = 0b00#2 then .reject .invalidHeader .layerReserved
      else if raw.extractLsb' 12 4 = 0b1111#4 then .reject .invalidHeader .bitrateInvalid
      else if raw.extractLsb' 10 2 = 0b11#2 then .reject .invalidHeader .samplingReserved
      else if raw.extractLsb' 0 2 = 0b10#2 then .reject .invalidHeader .emphasisReserved
      else .accept := by
  simp [headerChecksRunInOrder cfg raw, hver]

theorem headerCheck_accept_iff (hver : raw.extractLsb' 19 2 = 0b11#2) :
    headerCheck cfg raw = .accept ↔
      raw.extractLsb' 17 2 ≠ 0b00#2 ∧ raw.extractLsb' 12 4 ≠ 0b1111#4 ∧ raw.extractLsb' 10 2 ≠ 0b11#2 ∧
        raw.extractLsb' 0 2 ≠ 0b10#2 := by
  rw [headerCheck_version11 cfg hver]
  split_ifs with hlayer hbitrate hsrate hemphasis
  · simp [hlayer]
  · simp [hbitrate]
  · simp [hsrate]
  · simp [hemphasis]
  · simp [hlayer, hbitrate, hsrate, hemphasis]

/-- Under VERSION = 11 every rejection is an INVALID_HEADER. -/
theorem headerCheck_invalid_of_ne_accept (hver : raw.extractLsb' 19 2 = 0b11#2) (hne : headerCheck cfg raw ≠ .accept) :
    ∃ why, headerCheck cfg raw = .reject .invalidHeader why := by
  rw [headerCheck_version11 cfg hver] at hne ⊢
  split_ifs at hne ⊢
  · exact ⟨_, rfl⟩
  · exact ⟨_, rfl⟩
  · exact ⟨_, rfl⟩
  · exact ⟨_, rfl⟩
  · exact absurd rfl hne

end Version

/-! DECODE_HEADER (R68, R69): its three equations, and its verdict in the slices of ARG0. -/

/-- Settles O29: one equation per case; a rejection's numbers are `headerCheck_codes`. -/
theorem decodeHeaderValidatesTheWord : Obligations.DecodeHeaderValidatesTheWord := by
  intro s _
  refine ⟨exec_decodeHeader_of_width, exec_decodeHeader_of_accept, fun kind why hwidth hrej => ?_⟩
  exact ⟨_, _, headerCheck_codes hrej, exec_decodeHeader_of_reject hwidth hrej⟩

/-- Settles O27: under VERSION = 11 the chain is `headerCheck_version11`; where several codes are reserved, one of the last four checks
rejects. -/
theorem reservedCodesAreReported : Obligations.ReservedCodesAreReported := by
  intro s _ hwidth ver layer bitrate srate emphasis reports
  have slice (lo len : Nat) (hin : lo + len ≤ 32) :
      (s.arg0.extractLsb' 0 32).extractLsb' lo len = s.arg0.extractLsb' lo len :=
    BitVec.extractLsb'_extractLsb'_of_le hin
  have version {v : BitVec 2} (hver : ver = v) : (s.arg0.extractLsb' 0 32).extractLsb' 19 2 = v :=
    (slice 19 2 (by decide)).trans hver
  have reject {kind : Result} {why : Reason} (hrej : headerCheck s.cfg (s.arg0.extractLsb' 0 32) = .reject kind why) :
      reports (resultCode kind) (reasonCode why) :=
    exec_decodeHeader_of_reject hwidth hrej
  have invalid (hver : ver = 0b11#2) (hne : headerCheck s.cfg (s.arg0.extractLsb' 0 32) ≠ .accept) : ∃ reason, reports 4 reason := by
    obtain ⟨why, hrej⟩ := headerCheck_invalid_of_ne_accept s.cfg (version hver) hne
    exact ⟨_, reject hrej⟩
  have check (hver : ver = 0b11#2) := headerCheck_version11 s.cfg (version hver)
  have accepted (hver : ver = 0b11#2) := headerCheck_accept_iff s.cfg (version hver)
  simp only [slice 17 2 (by decide), slice 12 4 (by decide), slice 10 2 (by decide), slice 0 2 (by decide)] at check accepted
  refine ⟨?layer, ?bitrate, ?sampling, ?emphasis, ?version00, ?version10, ?bitrateAnyLayer, ?samplingAny, ?emphasisAny⟩
  case layer =>
    intro hver hlayer
    exact reject ((check hver).trans (if_pos hlayer))
  case bitrate =>
    intro hver hlayer hbitrate
    exact reject ((check hver).trans ((if_neg hlayer).trans (if_pos hbitrate)))
  case sampling =>
    intro hver hlayer hbitrate hsrate
    exact reject ((check hver).trans ((if_neg hlayer).trans ((if_neg hbitrate).trans (if_pos hsrate))))
  case emphasis =>
    intro hver hlayer hbitrate hsrate hemphasis
    exact reject ((check hver).trans
      ((if_neg hlayer).trans ((if_neg hbitrate).trans ((if_neg hsrate).trans (if_pos hemphasis)))))
  case version00 => exact fun hver => reject (headerCheck_version00 s.cfg (version hver))
  case version10 => exact fun hver => reject (headerCheck_version10 s.cfg (version hver))
  case bitrateAnyLayer =>
    intro hver hbitrate
    split_ifs with hlayer
    · exact reject ((check hver).trans (if_pos hlayer))
    · exact reject ((check hver).trans ((if_neg hlayer).trans (if_pos hbitrate)))
  case samplingAny =>
    refine fun hver hsrate => invalid hver fun hok => ?_
    obtain ⟨-, -, hlegal, -⟩ := (accepted hver).mp hok
    exact hlegal hsrate
  case emphasisAny =>
    refine fun hver hemphasis => invalid hver fun hok => ?_
    obtain ⟨-, -, -, hlegal⟩ := (accepted hver).mp hok
    exact hlegal hemphasis

/-- What a NEXT_FRAME with RESULT = 1 shows is a candidate of the scan: any other answer has another RESULT. -/
theorem exec_nextFrame_syncWord {s t : State} (hattached : s.attached = true) (h : exec .nextFrame s = .next t)
    (hresult : t.result = 1) : syncWord t.hdrRaw = true := by
  rcases execNextFrame_cases h with ⟨hnone, _⟩ | ⟨_, _, rfl⟩ |
    ⟨_, cand, hfound, ⟨kind, why, hrej, rfl⟩ | ⟨_, _, rfl⟩ | ⟨_, _, _, rfl⟩⟩
  · simp [hattached] at hnone
  · simp [resultCode] at hresult
  · exact absurd (resultCode_eq_one.mp hresult) (reasonFits_of_reject hrej).1
  · simp [resultCode] at hresult
  · exact (syncScan_some hfound).1

/-- Settles O28: the check reads the low 21 bits only, which `sync ++ ARG0[20:0]` shares with ARG0; NEXT_FRAME's header comes from the
scan. -/
theorem syncIsTestedOnlyByTheSynchronizer : Obligations.SyncIsTestedOnlyByTheSynchronizer := by
  refine ⟨fun cfg _ _ => headerCheck_congr cfg, fun s sync _ hwidth hok => ?_, fun s t _ hattached h hresult => ?_⟩
  · have hlow : (s.arg0.extractLsb' 0 32).extractLsb' 0 21 = (sync ++ s.arg0.extractLsb' 0 21).extractLsb' 0 21 := by
      rw [BitVec.extractLsb'_extractLsb'_of_le (by decide), BitVec.extractLsb'_append_eq_right]
    exact ⟨_, exec_decodeHeader_of_accept hwidth ((headerCheck_congr s.cfg hlow).trans hok), rfl, rfl, rfl⟩
  · exact (syncWord_iff _).mp (exec_nextFrame_syncWord hattached h hresult)

/-! The field registers and the derived registers (R70 to R73). -/

/-- Settles O30: `fieldReg_eq` for each register. -/
theorem fieldRegistersReadTheHeaderBits : Obligations.FieldRegistersReadTheHeaderBits := by
  intro s f
  have shows (hi lo : Nat) (hlo : lo ≤ hi) : fieldReg s hi lo = f hi lo := fieldReg_eq s hlo
  exact ⟨shows 31 21 (by decide), shows 20 20 (by decide), shows 19 19 (by decide), shows 18 17 (by decide), shows 16 16 (by decide),
    shows 15 12 (by decide), shows 11 10 (by decide), shows 9 9 (by decide), shows 8 8 (by decide), shows 7 6 (by decide),
    shows 5 4 (by decide), shows 3 3 (by decide), shows 2 2 (by decide), shows 1 0 (by decide)⟩

/-- The field fits the register: it is at most the word. -/
theorem fieldReg_toNat {s : State} (hvalid : s.hdrValid = true) (hi lo : Nat) :
    (fieldReg s hi lo).toNat = hdrField s.hdrRaw hi lo := by
  have hle : hdrField s.hdrRaw hi lo ≤ s.hdrRaw.toNat := Nat.and_le_left.trans (Nat.shiftRight_le _ _)
  rw [fieldReg, if_pos hvalid]
  exact Nat.mod_eq_of_lt (by omega)

/-- Settles O31: the header was accepted, and the registers show the fields that the check tested. -/
theorem validHeaderShowsNoReservedCode : Obligations.ValidHeaderShowsNoReservedCode := by
  intro s hs hvalid
  obtain ⟨-, hlayer, hbitrate, hsrate, hemphasis⟩ := headerCheck_accept (hs.headerAccepted hvalid)
  have shows {hi lo : Nat} {v : Word} (hne : hdrField s.hdrRaw hi lo ≠ v.toNat) : fieldReg s hi lo ≠ v := by
    rintro rfl
    exact hne (fieldReg_toNat hvalid hi lo).symm
  exact ⟨shows hlayer, shows hbitrate, shows hsrate, shows hemphasis⟩

/-- A lookup in a well-formed BITRATE_TABLE (R71): in range below index 15 of a layer other than 00, and 0 at index 0. -/
theorem bitrateKbps_lookup {cfg : Config} {raw : HdrWord} (hcfg : cfg.wf) (hlayer : hdrLayer raw ≠ 0)
    (hindex : hdrBitrateIndex raw < 15) :
    ∃ row, cfg.bitrateTable[3 - hdrLayer raw]? = some row ∧ row[hdrBitrateIndex raw]? = some (bitrateKbps cfg raw) ∧
      row[0]? = some 0 := by
  obtain ⟨-, -, hrows, hshape⟩ := hcfg
  have hrow : 3 - hdrLayer raw < cfg.bitrateTable.length := by omega
  obtain ⟨hlen, hfree⟩ := hshape _ (List.getElem_mem hrow)
  refine ⟨_, List.getElem?_eq_getElem hrow, ?_, hfree⟩
  have hentry : hdrBitrateIndex raw < cfg.bitrateTable[3 - hdrLayer raw].length := hlen ▸ hindex
  rw [bitrateKbps, List.getD_eq_getElem _ _ hrow, List.getD_eq_getElem _ _ hentry, List.getElem?_eq_getElem hentry]

theorem samplingRateHz_lookup {raw : HdrWord} (hindex : hdrSrateIndex raw < 3) :
    samplingTable[hdrSrateIndex raw]? = some (samplingRateHz raw) := by
  have hentry : hdrSrateIndex raw < samplingTable.length := hindex
  rw [samplingRateHz, List.getD_eq_getElem _ _ hentry, List.getElem?_eq_getElem hentry]

/-- Settles O32: an accepted header's fields are in the range of both lookups. -/
theorem derivedRegistersLookUpTheTables : Obligations.DerivedRegistersLookUpTheTables := by
  intro s
  refine ⟨fun hs hvalid => ?_, fun hvalid => ?_⟩
  · obtain ⟨-, hlayer, hbitrate, hsrate, -⟩ := headerCheck_accept (hs.headerAccepted hvalid)
    have hbitrate_le : hdrBitrateIndex s.hdrRaw < 16 := bitRange_lt _ 12 16
    have hsrate_le : hdrSrateIndex s.hdrRaw < 4 := bitRange_lt _ 10 12
    have hkbps : readReg s .bitrateKbps = bitrateKbps s.cfg s.hdrRaw := if_pos hvalid
    have hhz : readReg s .samplingRateHz = samplingRateHz s.hdrRaw := if_pos hvalid
    obtain ⟨row, hrow, hentry, hfree⟩ := bitrateKbps_lookup hs.config hlayer (by omega)
    have hlookup := samplingRateHz_lookup (raw := s.hdrRaw) (by omega)
    rw [← hdrLayer_eq, ← hdrSrateIndex_eq, hkbps, hhz]
    refine ⟨⟨row, hrow, hdrBitrateIndex_eq _ ▸ hentry⟩, fun hzero => ?_, hlookup⟩
    rw [hdrBitrateIndex_eq, hzero] at hentry
    exact Option.some.inj (hentry.symm.trans hfree)
  · exact ⟨by simp [readReg, hvalid], by simp [readReg, hvalid]⟩

/-! Packed fields (R74, 30_encoding.md R45). -/

/-- The fields of a header word but VERSION. -/
structure HeaderFields where
  sync : BitVec 11
  layer : BitVec 2
  prot : BitVec 1
  bitrate : BitVec 4
  srate : BitVec 2
  padding : BitVec 1
  priv : BitVec 1
  mode : BitVec 2
  ext : BitVec 2
  copyright : BitVec 1
  original : BitVec 1
  emphasis : BitVec 2

/-- The word of these fields and VERSION = 11, most significant first (R45). -/
def HeaderFields.word (f : HeaderFields) : HdrWord :=
  f.sync ++ 0b11#2 ++ f.layer ++ f.prot ++ f.bitrate ++ f.srate ++ f.padding ++ f.priv ++ f.mode ++ f.ext ++ f.copyright
    ++ f.original ++ f.emphasis

/-- Each field is its slice of the word, VERSION whole and bit by bit. -/
theorem HeaderFields.slices (f : HeaderFields) :
    (f.word.extractLsb' 21 11 = f.sync ∧ f.word.extractLsb' 19 2 = 0b11#2 ∧ f.word.extractLsb' 20 1 = 1#1 ∧
      f.word.extractLsb' 19 1 = 1#1) ∧
    f.word.extractLsb' 17 2 = f.layer ∧ f.word.extractLsb' 16 1 = f.prot ∧ f.word.extractLsb' 12 4 = f.bitrate ∧
    f.word.extractLsb' 10 2 = f.srate ∧ f.word.extractLsb' 9 1 = f.padding ∧ f.word.extractLsb' 8 1 = f.priv ∧
    f.word.extractLsb' 6 2 = f.mode ∧ f.word.extractLsb' 4 2 = f.ext ∧ f.word.extractLsb' 3 1 = f.copyright ∧
    f.word.extractLsb' 2 1 = f.original ∧ f.word.extractLsb' 0 2 = f.emphasis := by
  unfold HeaderFields.word
  refine ⟨⟨?_, ?_, ?versionLow, ?versionSel⟩, ?_, ?_, ?_, ?_, ?_, ?_, ?_, ?_, ?_, ?_, ?_⟩
  all_goals
    repeat rw [BitVec.extractLsb'_append_eq_of_le (by decide)]
    repeat rw [BitVec.extractLsb'_append_eq_of_add_le (by decide)]
  case versionLow | versionSel => rfl
  all_goals exact BitVec.extractLsb'_eq_self

/-- No field holds a reserved code (R66). -/
def HeaderFields.Legal (f : HeaderFields) : Prop :=
  f.layer ≠ 0b00#2 ∧ f.bitrate ≠ 0b1111#4 ∧ f.srate ≠ 0b11#2 ∧ f.emphasis ≠ 0b10#2

theorem headerCheck_word {f : HeaderFields} (hlegal : f.Legal) (cfg : Config) : headerCheck cfg f.word = .accept := by
  obtain ⟨⟨-, hver, -⟩, hlayer, -, hbitrate, hsrate, -, -, -, -, -, -, hemphasis⟩ := f.slices
  rw [headerCheck_accept_iff cfg hver, hlayer, hbitrate, hsrate, hemphasis]
  exact hlegal

/-- DECODE_HEADER of a packed word shows that word. -/
theorem exec_decodeHeader_of_word {s : State} {f : HeaderFields} (hlegal : f.Legal) (harg : s.arg0 = f.word.setWidth 64) :
    exec .decodeHeader s = .next (finish .header .none (setHeader f.word s)) := by
  have hwidth : s.arg0.toNat < 2 ^ 32 := by
    rw [harg, BitVec.toNat_setWidth_of_le (by decide)]
    exact f.word.isLt
  have hlow : s.arg0.extractLsb' 0 32 = f.word := by
    rw [harg, BitVec.extractLsb'_setWidth_of_le (by decide), BitVec.extractLsb'_eq_self]
  rw [exec_decodeHeader_of_accept hwidth (hlow ▸ headerCheck_word hlegal s.cfg), hlow]

/-- Settles O33: the word is accepted and shown, and each register reads the slice that holds its field. -/
theorem headerFieldsRoundTrip : Obligations.HeaderFieldsRoundTrip := by
  intro s sync layer prot bitrate srate padding priv mode ext copyright original emphasis hlayer hbitrate hsrate hemphasis _ harg
  let f : HeaderFields := ⟨sync, layer, prot, bitrate, srate, padding, priv, mode, ext, copyright, original, emphasis⟩
  have hlegal : f.Legal := ⟨hlayer, hbitrate, hsrate, hemphasis⟩
  have reads {hi lo : Nat} (hlo : lo ≤ hi) {x : BitVec (hi + 1 - lo)} (hx : f.word.extractLsb' lo (hi + 1 - lo) = x) :
      fieldReg (finish .header .none (setHeader f.word s)) hi lo = x.setWidth 64 :=
    hx ▸ fieldReg_eq _ hlo
  obtain ⟨⟨hsync, -, hversionLow, hversionSel⟩, hlayer, hprot, hbitrate, hsrate, hpadding, hpriv, hmode, hext, hcopyright,
    horiginal, hemphasis⟩ := f.slices
  exact ⟨_, exec_decodeHeader_of_word hlegal harg, rfl, rfl,
    reads (by decide) hsync, reads (hi := 20) (by decide) hversionLow, reads (hi := 19) (by decide) hversionSel,
    reads (by decide) hlayer, reads (by decide) hprot,
    reads (by decide) hbitrate, reads (by decide) hsrate, reads (by decide) hpadding, reads (by decide) hpriv,
    reads (by decide) hmode, reads (by decide) hext, reads (by decide) hcopyright, reads (by decide) horiginal,
    reads (by decide) hemphasis⟩

end Sys2Proof.Machine

namespace Sys2Proof.Machine

/-! The syncword predicate (43_synchronizer.md R75). -/

/-- Settles O38: `HasSync` is the rule's test of w[31:21], and `syncWord_iff` says that the source's form is equivalent to it. -/
theorem syncPredicateTestsElevenBits : Obligations.SyncPredicateTestsElevenBits :=
  syncWord_iff

end Sys2Proof.Machine

namespace Sys2Proof.Machine

/-! The Decoder Facade at its edges: NEXT_FRAME without a buffer (44_facade.md R82) and at the end of the stream (R85). -/

/-- Settles O35: the first test of NEXT_FRAME; cause 2 is the code of NOT_ATTACHED. -/
theorem nextFrameNeedsAnAttachment : Obligations.NextFrameNeedsAnAttachment := by
  intro s _ hunattached
  exact exec_nextFrame_of_unattached hunattached

theorem atEnd_noMoreData {s : State} {c : Nat} (d : Nat) (hattached : s.attached = true) (hc : c < 2 ^ 64)
    (hleft : s.bufLen.toNat - c < 4) : AtEnd (finish .noMoreData .none (clearHeader (moveCursor c d s))) := by
  have hplace : (BitVec.ofNat 64 c).toNat = c := by rw [BitVec.toNat_ofNat, Nat.mod_eq_of_lt hc]
  refine ⟨hattached, ?_⟩
  rwa [finish_cursor, clearHeader_cursor, moveCursor_cursor, hplace]

theorem syncScan_cursor_lt (s : State) : (syncScan s).cursor < 2 ^ 64 := by
  have := s.cursor.isLt
  have := s.bufLen.isLt
  obtain ⟨-, hsame | hin⟩ := syncScan_cursor s <;> omega

/-- A scan without a match ran out of bytes: at its start, or after the last one (43_synchronizer.md R77). -/
theorem syncScan_none_left {s : State} (h : (syncScan s).found = none) : s.bufLen.toNat - (syncScan s).cursor < 4 := by
  rcases syncScan_none h with ⟨hshort, hscan⟩ | ⟨_, hcursor⟩
  · rwa [hscan]
  · omega

/-- NO_MORE_DATA has two sources, a scan that ran out and a CRC field cut off (R83); fewer than 4 bytes are left after each. -/
theorem exec_nextFrame_noMoreData_atEnd {s t : State} (h : exec .nextFrame s = .next t) (hattached : s.attached = true)
    (hresult : t.result = 2) : AtEnd t := by
  rcases execNextFrame_cases h with ⟨hunattached, _⟩ | ⟨_, hnone, rfl⟩ |
    ⟨_, _, _, ⟨_, _, hrej, rfl⟩ | ⟨_, hcrc, rfl⟩ | ⟨_, _, _, rfl⟩⟩
  · simp [hattached] at hunattached
  · exact atEnd_noMoreData _ hattached (syncScan_cursor_lt s) (syncScan_none_left hnone)
  · rcases headerCheck_reject hrej with ⟨rfl, _⟩ | ⟨rfl, _⟩ <;> simp [resultCode] at hresult
  · obtain ⟨-, hleft⟩ := crcSkip_none hcrc
    exact atEnd_noMoreData _ hattached (syncScan_cursor_lt s) (Nat.lt_of_lt_of_le hleft (by decide))
  · simp [resultCode] at hresult

/-- The first row of R83. -/
theorem exec_nextFrame_of_atEnd {s : State} (hrunning : s.fault = false) (hend : AtEnd s) :
    exec .nextFrame s = .next { s with hdrRaw := 0, hdrValid := false, result := 2, reason := 0 } := by
  obtain ⟨hattached, hshort⟩ := hend
  obtain ⟨hrow, -⟩ := nextFrameOutcomeTable s hrunning hattached
  exact hrow hshort

/-- A NEXT_FRAME stays where it is at the end of the stream; no other step but reset and ATTACH writes the view (10_state.md R21). -/
theorem step_keeps_atEnd {s t : State} (hend : AtEnd s) (h : step s = .next t) (hreset : ¬ AssertsReset s)
    (hattach : ¬ Issues s .attach) : AtEnd t ∧ t.cursor = s.cursor := by
  by_cases hnext : Issues s .nextFrame
  · obtain ⟨v, rest, hhost, hrunning, hdecode⟩ := hnext
    rw [step_command hhost hrunning hdecode, exec_nextFrame_of_atEnd (s := popAccess rest s) hrunning hend] at h
    obtain rfl := Host.Outcome.next.inj h
    exact ⟨hend, rfl⟩
  · obtain ⟨hattached, hlen, hcursor⟩ := onlyAttachAndResetWriteTheView s t h hreset hattach
    have hcursor := hcursor hnext
    refine ⟨?_, hcursor⟩
    rwa [AtEnd, hattached, hlen, hcursor]

/-- Settles O41: the end is reached with NO_MORE_DATA, kept by every step of the attachment, and answered with NO_MORE_DATA. -/
theorem endOfStreamIsStable : Obligations.EndOfStreamIsStable := by
  refine ⟨fun s t _ hattached h hresult => ?_, fun s t hend h hreset hattach => ?_, fun s hrunning hend => ?_⟩
  · exact exec_nextFrame_noMoreData_atEnd h hattached hresult
  · exact step_keeps_atEnd hend h hreset hattach
  · exact ⟨_, exec_nextFrame_of_atEnd hrunning hend, rfl, rfl, hend⟩

end Sys2Proof.Machine

namespace Sys2Proof.Machine

/-! The contract fault (60_exceptions.md R89, R97): what enters it, and the idle block. -/

/-- Settles O8: with no access to take, the step is the one that answers the state it was given. -/
theorem idleBlockKeepsItsState : Obligations.IdleBlockKeepsItsState := by
  intro s hidle
  rw [step, stepAccess, hidle]

/-- A CMD write enters the fault through `raiseFault` alone: on a reserved word (R57) or within a command. -/
theorem issue_fault_entry {v : Word} {s t : State} (h : issue v s = .next t) (hrunning : s.fault = false) (hfault : t.fault = true) :
    ∃ cause, t = raiseFault cause s := by
  rcases issue_cases h with ⟨hhalted, _⟩ | ⟨_, _, rfl⟩ | ⟨_, _, _, hexec⟩
  · simp [hrunning] at hhalted
  · exact ⟨_, rfl⟩
  · rcases exec_result hexec with hraised | ⟨hkept, -, -⟩
    · exact hraised
    · simp [hkept, hrunning] at hfault

/-- Only a CMD write enters the fault: every other access leaves FAULT, or clears it (a reset). -/
theorem step_fault_entry {s t : State} (h : step s = .next t) (hrunning : s.fault = false) (hfault : t.fault = true) :
    ∃ v rest cause, s.host = .write 0x00 v :: rest ∧ t = raiseFault cause (popAccess rest s) := by
  rcases step_cases h with ⟨_, rfl⟩ | ⟨v, rest, hhost, hissue⟩ | ⟨_, _, _, rfl⟩ | ⟨_, _, _, rfl⟩ | ⟨_, _, _, _, _, rfl⟩ |
    ⟨_, _, _, rfl⟩ | ⟨_, _, _, _, _, rfl⟩ | ⟨_, _, rfl⟩
  case inr.inl =>
    obtain ⟨cause, ht⟩ := issue_fault_entry hissue hrunning hfault
    exact ⟨v, rest, cause, hhost, ht⟩
  all_goals simp [hrunning] at hfault

/-- Settles O21: the faulting step is a CMD write, and `raiseFault` changes FAULT and FAULT_CAUSE alone. -/
theorem faultEntryIsPrecise : Obligations.FaultEntryIsPrecise := by
  intro s t h hrunning hfault
  obtain ⟨v, rest, cause, hhost, rfl⟩ := step_fault_entry h hrunning hfault
  exact ⟨_, rest, causeCode cause, hhost, rfl, causeCode_range cause⟩

end Sys2Proof.Machine

namespace Sys2Proof.Machine

/-! Progress and the end of a run (70_reset_and_hazards.md R104, R106, R107). -/

/-- Settles O9: the commands' equations cover every state. -/
theorem everyCommandCompletes : Obligations.EveryCommandCompletes :=
  exec_next

/-- A place inside the buffer fits CURSOR's 64 bits. -/
theorem moveCursor_cursor_toNat {s : State} {c : Nat} (d : Nat) (hin : c ≤ s.bufLen.toNat) : (moveCursor c d s).cursor.toNat = c :=
  Nat.mod_eq_of_lt (hin.trans_lt s.bufLen.isLt)

/-- Whatever becomes of a candidate, CURSOR does not fall back behind it (44_facade.md R82, 43_synchronizer.md R80). -/
theorem acceptCandidate_cursor_ge {s : State} {cand : HdrWord} {c : Nat} (d : Nat) (hin : c ≤ s.bufLen.toNat) :
    c ≤ (acceptCandidate cand c d s).cursor.toNat := by
  have hstay : (moveCursor c d s).cursor.toNat = c := moveCursor_cursor_toNat d hin
  simp only [acceptCandidate]
  split
  case h_1 => exact hstay.ge
  case h_2 =>
    split
    case h_1 => exact hstay.ge
    case h_2 c' hcrc =>
      obtain ⟨hle, hin'⟩ := crcSkip_le hcrc
      have hskip : (moveCursor c' d s).cursor.toNat = c' := moveCursor_cursor_toNat d (by omega)
      exact hle.trans_eq hskip.symm

/-- Settles O40: the scan stops 4 bytes after the candidate's start, which is not before CURSOR, and what follows only adds to that. -/
theorem findingACandidateMakesProgress : Obligations.FindingACandidateMakesProgress := by
  intro s m _ hattached hm
  refine ⟨_, exec_nextFrame_of_found hattached (syncScan_of_firstSync hm), ?_⟩
  calc s.cursor.toNat + 4
    _ ≤ m + 4 := Nat.add_le_add_right hm.fromCursor 4
    _ ≤ _ := acceptCandidate_cursor_ge _ hm.inBuffer

/-- Writes and reads of registers are the register accesses (20_memory.md R31). -/
theorem isRegisterAccess_of_write_or_read {a : HostAccess} (h : (∃ n v, a = .write n v) ∨ ∃ n, a = .read n) :
    isRegisterAccess a = true := by
  rcases h with ⟨n, v, rfl⟩ | ⟨n, rfl⟩
  · rfl
  · rfl

/-- Stores and resets are no register accesses (R30, R99). -/
theorem any_isRegisterAccess_eq_false {l : List HostAccess} (h : ∀ b ∈ l, (∃ i x, b = .store i x) ∨ b = .reset) :
    l.any isRegisterAccess = false := by
  rw [List.any_eq_false]
  intro b hb
  rcases h b hb with ⟨i, x, rfl⟩ | rfl
  · exact Bool.false_ne_true
  · exact Bool.false_ne_true

/-! The verdict and the observation of a run that ends in `t`. -/

section RunEnd
variable {s t : State} (hend : runEnd s = .next t)
include hend

theorem successfulRun_iff : successfulRun s ↔ t.fault = false := by
  simp [successfulRun, hend]

theorem faultedRun_iff : faultedRun s ↔ t.fault = true := by
  simp [faultedRun, hend]

theorem runObservation_eq : runObservation s = some (observation t) := by
  simp only [runObservation, hend]

end RunEnd

/-- A run has one end, and one FAULT there. -/
theorem not_faultedRun_and_successfulRun (s : State) : ¬ (faultedRun s ∧ successfulRun s) := by
  rintro ⟨⟨t, hend, hfault⟩, hsuccess⟩
  simp [(successfulRun_iff hend).mp hsuccess] at hfault

/-- Settles O15: the count of the run's accesses, then verdict and observation at its end. -/
theorem runEndsWithTheLastRegisterAccess : Obligations.RunEndsWithTheLastRegisterAccess := by
  intro s before after a hhost ha hafter
  have hrun : runEnd s = Host.Core.run core (before.length + 1) s := by
    rw [runEnd, hhost, accessesInRun_append (isRegisterAccess_of_write_or_read ha) (any_isRegisterAccess_eq_false hafter)]
  refine ⟨hrun, fun t hend => ⟨?_, successfulRun_iff hend, faultedRun_iff hend, ?_⟩, not_faultedRun_and_successfulRun s⟩
  · rw [run_host (hrun.symm.trans hend), hhost]
    simp
  · exact ⟨observation t, runObservation_eq hend, fun _ _ => mem_observation⟩

end Sys2Proof.Machine

namespace Sys2Proof.Machine

/-! The lines and the programs of which the spec says nothing (log entries 16, 20 and 21). -/

theorem bound_wf_eq_false_iff {b : Bound} : b.wf = false ↔ ∃ p, 256 ≤ p ∧ (b = .included p ∨ b = .excluded p) := by
  cases b with
  | unbounded => simp [Bound.wf]
  | included p => simp [Bound.wf]
  | excluded p => simp [Bound.wf]

theorem expandLine_bitRange_eq_none {s : State} {w : Width} {value : Word} {start stop : Bound} :
    expandLine s (.bitRange w value start stop) = none ↔ start.wf = false ∨ stop.wf = false := by
  simp [expandLine, Instr.wf, imp_iff_not_or]

theorem expandLine_skip_eq_none {s : State} {n : Nat} : expandLine s (.skip n) = none ↔ 2 ^ 64 ≤ s.cursor.toNat + n := by
  simp [expandLine]

/-- Settles O6, line by line: only `bit_range` and `skip` have a condition on their operands. -/
theorem linesWithoutAnExpansion : Obligations.LinesWithoutAnExpansion := by
  intro s line
  cases line with
  | bitRange w value start stop =>
    rw [expandLine_bitRange_eq_none, bound_wf_eq_false_iff, bound_wf_eq_false_iff, ← exists_or]
    simp [← and_or_left, or_assoc]
  | skip n => simp [expandLine_skip_eq_none]
  | attach len start => simp [expandLine]
  | nextFrame => simp [expandLine]
  | decodeHeader word => simp [expandLine]
  | read r => simp [expandLine]

/-- Settles O16: the run has no accesses, so it ends where it began. -/
theorem programWithoutARegisterAccessHasAnEmptyRun : Obligations.ProgramWithoutARegisterAccessHasAnEmptyRun := by
  intro s h
  rw [runEnd, accessesInRun_none (any_isRegisterAccess_eq_false h)]
  rfl

end Sys2Proof.Machine
